-- ==== Sys2Proof/Word.lean ====
section
/-! DEFINITION. The word types of the FDWG core: every port transfer and every register the host sees is one
32-bit word (spec 20_memory R206); a sample, coefficient or filter state is an IEEE binary32 pattern in such a
word (00_scope R12). -/

namespace Sys2Proof

/-- A 32-bit word: u32 and i32 registers, command words and payload words (00_scope R11). -/
abbrev Word := BitVec 32

/-- An f32: the bit pattern of an IEEE 754 binary32 number (00_scope R12, 20_memory R206). -/
abbrev F32 := BitVec 32

end Sys2Proof
end

