-- ==== Sys2Proof/Config.lean ====
section
/-! DEFINITION. What an implementation fixes (00_scope R8, 47_params R830, R831), and the free values: configuration functions
other than the default ones of 00_scope R16 (log 8), and the values that the spec leaves open (log 6, log 7, log 10). A free value
is a constant without a body, so no proof can see what it is. -/

namespace Sys2Proof

/-- The three instrument families, String = 0, Reed = 1, Bow = 2 (00_scope R9). -/
inductive Family where
  | string
  | reed
  | bow
  deriving DecidableEq, Repr

namespace Config

/-- Parameter kinds (47_params R800). -/
inductive Kind where
  | int
  | float
  | bool
  | enum
  deriving DecidableEq, Repr

/-- Which of the DISP/STAGES pair of a family a DISP slot is (47_params R830). -/
inductive DispRole where
  | groupDelay
  | stages
  deriving DecidableEq, Repr

/-- Which of the ATTACK/RELEASE pair of a family an ENV slot is (47_params R830). -/
inductive EnvRole where
  | attack
  | release
  deriving DecidableEq, Repr

/-- The callback classes of 47_params R821; the role says which slot of a pair it is. -/
inductive Callback where
  | live
  | loss
  | lossType
  | disp (role : DispRole)
  | env (role : EnvRole)
  deriving DecidableEq, Repr

/-- The parameter names of 47_params R830. `other n` names a row that a configuration adds: no rule of 45_voices
reads it by name. -/
inductive ParamName where
  | strDecayMs
  | strLossCutoff
  | strLossType
  | strPluckPos
  | strColor
  | strDisp
  | strDispStages
  | strNoiseSeed
  | reedPressure
  | reedAttackMs
  | reedReleaseMs
  | reedSlope
  | reedInhaleOffset
  | reedActiveOffset
  | reedLoopGain
  | reedLossCutoff
  | reedDisp
  | reedDispStages
  | bowSpeed
  | bowPosition
  | bowSlope
  | bowOffset
  | bowReflMin
  | bowReflMax
  | bowAttackMs
  | bowReleaseMs
  | bowLoopGain
  | bowLossCutoff
  | bowLossType
  | bowDisp
  | bowDispStages
  | other (n : Nat)
  deriving DecidableEq, Repr

/-- The family that 47_params R830 shows for a name. -/
def ParamName.family : ParamName → Option Family
  | .strDecayMs => some .string
  | .strLossCutoff => some .string
  | .strLossType => some .string
  | .strPluckPos => some .string
  | .strColor => some .string
  | .strDisp => some .string
  | .strDispStages => some .string
  | .strNoiseSeed => some .string
  | .reedPressure => some .reed
  | .reedAttackMs => some .reed
  | .reedReleaseMs => some .reed
  | .reedSlope => some .reed
  | .reedInhaleOffset => some .reed
  | .reedActiveOffset => some .reed
  | .reedLoopGain => some .reed
  | .reedLossCutoff => some .reed
  | .reedDisp => some .reed
  | .reedDispStages => some .reed
  | .bowSpeed => some .bow
  | .bowPosition => some .bow
  | .bowSlope => some .bow
  | .bowOffset => some .bow
  | .bowReflMin => some .bow
  | .bowReflMax => some .bow
  | .bowAttackMs => some .bow
  | .bowReleaseMs => some .bow
  | .bowLoopGain => some .bow
  | .bowLossCutoff => some .bow
  | .bowLossType => some .bow
  | .bowDisp => some .bow
  | .bowDispStages => some .bow
  | .other _ => none

/-- One row of PARAM_TABLE (47_params R800, R830): its slot is its position in the table. -/
structure ParamRow where
  name : ParamName
  kind : Kind
  minVal : Int
  maxVal : Int
  step : Int
  altMul : Int
  defaultVal : Int
  cb : Callback
  fam : Family
  deriving DecidableEq, Repr

/-- The configuration functions of 00_scope R16, as plain data: the default, correctly rounded, or others, which are free
values numbered by `n` (log 8). -/
inductive Functions where
  | correctlyRounded
  | given (n : Nat)
  deriving DecidableEq, Repr

/-- The implementation parameters of 00_scope R8. -/
structure Params where
  /-- sample rate FS in Hz -/
  fs : Nat
  /-- samples per block B -/
  block : Nat
  /-- delay-line capacity C -/
  cap : Nat
  /-- lines in the pool N_LINES -/
  nLines : Nat
  table : List ParamRow
  threshString : F32
  threshReed : F32
  threshBow : F32
  /-- TAN32 … TANH32 -/
  fns : Functions
  deriving DecidableEq, Repr

/-- The number of voices per family, fixed (00_scope R8). -/
def nPoly : Nat := 8

/-- The number of parameter slots, fixed (00_scope R8). -/
def nSlots : Nat := 128

def isI32 (n : Int) : Bool := decide (-2147483648 ≤ n) && decide (n ≤ 2147483647)

/-- The constraint of 47_params R831 that goes with a row's callback class. -/
def rowClassOk (r : ParamRow) : Bool :=
  match r.cb with
  | .live => true
  | .loss => true
  | .lossType => decide (r.maxVal ≤ 1) && r.fam != .reed
  | .disp .groupDelay => true
  | .disp .stages => decide (0 ≤ r.minVal) && decide (r.maxVal ≤ 4)
  | .env _ => true

/-- The constraints of 47_params R831 on one row. -/
def rowOk (r : ParamRow) : Bool :=
  isI32 r.minVal && isI32 r.defaultVal && isI32 r.maxVal &&
  decide (r.minVal ≤ r.defaultVal) && decide (r.defaultVal ≤ r.maxVal) &&
  decide (1 ≤ r.step) && decide (1 ≤ r.altMul) &&
  (match r.kind with
   | .bool => decide (r.minVal = 0) && decide (r.maxVal = 1)
   | .enum => decide (r.minVal = 0)
   | _ => true) &&
  rowClassOk r

/-- How many rows of a table have the callback class and the family. -/
def countClass (t : List ParamRow) (cb : Callback) (f : Family) : Nat :=
  t.countP (fun r => r.cb == cb && r.fam == f)

/-- The names that 45_voices reads through LIVE (R612, R614, R620–R622, R640). -/
def readByName : List ParamName :=
  [.strDecayMs, .strPluckPos, .strColor, .strNoiseSeed] ++
  [.reedPressure, .reedSlope, .reedInhaleOffset, .reedActiveOffset, .reedLoopGain, .reedAttackMs, .reedReleaseMs] ++
  [.bowSpeed, .bowPosition, .bowSlope, .bowOffset, .bowReflMin, .bowReflMax, .bowLoopGain, .bowAttackMs, .bowReleaseMs]

/-- A row has the name, and the family that goes with it. -/
def rowNamed (n : ParamName) (r : ParamRow) : Bool := r.name == n && n.family == some r.fam

/-- The constraints of 47_params R831 on a whole table. -/
def tableOk (t : List ParamRow) : Bool :=
  decide (t.length ≤ nSlots) && t.all rowOk &&
  ([Family.string, .reed, .bow].all fun f =>
    decide (countClass t .loss f = 1) &&
    decide (countClass t (.disp .groupDelay) f = 1) &&
    decide (countClass t (.disp .stages) f = 1)) &&
  ([Family.reed, .bow].all fun f =>
    decide (countClass t (.env .attack) f = 1) && decide (countClass t (.env .release) f = 1)) &&
  readByName.all fun n => t.any (rowNamed n)

/-- A threshold is a binary32 number above 0 (00_scope R8): sign clear, not zero, not a NaN. -/
def positiveF32 (x : F32) : Bool := decide (0 < x.toNat) && decide (x.toNat ≤ 0x7F800000)

/-- The legal ranges of 00_scope R8. -/
def Params.valid (p : Params) : Bool :=
  decide (40001 ≤ p.fs) && decide (p.fs ≤ 192000) &&
  decide (1 ≤ p.block) && decide (p.block ≤ 4096) &&
  ((List.range 24).any fun k => p.cap == 2 ^ (k + 1)) &&
  decide (1 ≤ p.nLines) && decide (p.nLines ≤ 255) &&
  tableOk p.table &&
  positiveF32 p.threshString && positiveF32 p.threshReed && positiveF32 p.threshBow

end Config

/-- A configuration that the model accepts: "A configuration outside the stated range is refused by the model"
(00_scope R8), "when the model is built, not at run time" (60_exceptions R912). -/
abbrev Cfg := { p : Config.Params // p.valid = true }

namespace Config

/-- Build the model's configuration; an invalid one is refused (00_scope R8). -/
def build (p : Params) : Option Cfg := if h : p.valid = true then some ⟨p, h⟩ else none

/-! ### The defaults (00_scope R8, 47_params R830) -/

def stringRows : List ParamRow :=
  [⟨.strDecayMs, .float, 0, 2000000000, 1000000, 10, 200000000, .live, .string⟩,
   ⟨.strLossCutoff, .float, 2000000, 2000000000, 1000000, 10, 800000000, .loss, .string⟩,
   ⟨.strLossType, .enum, 0, 1, 1, 1, 0, .lossType, .string⟩,
   ⟨.strPluckPos, .float, 0, 100000, 1000, 10, 50000, .live, .string⟩,
   ⟨.strColor, .float, 0, 100000, 1000, 10, 50000, .live, .string⟩,
   ⟨.strDisp, .float, 0, 800000, 1000, 10, 0, .disp .groupDelay, .string⟩,
   ⟨.strDispStages, .int, 0, 4, 1, 1, 4, .disp .stages, .string⟩,
   ⟨.strNoiseSeed, .int, 0, 2147483647, 1, 1000, 1, .live, .string⟩]

def reedRows : List ParamRow :=
  [⟨.reedPressure, .float, 0, 100000, 1000, 10, 80000, .live, .reed⟩,
   ⟨.reedAttackMs, .float, 0, 500000000, 100000, 10, 2000000, .env .attack, .reed⟩,
   ⟨.reedReleaseMs, .float, 0, 500000000, 100000, 10, 5000000, .env .release, .reed⟩,
   ⟨.reedSlope, .float, -200000, 200000, 1000, 10, 30000, .live, .reed⟩,
   ⟨.reedInhaleOffset, .float, -100000, 100000, 1000, 10, 60000, .live, .reed⟩,
   ⟨.reedActiveOffset, .float, -100000, 100000, 1000, 10, 70000, .live, .reed⟩,
   ⟨.reedLoopGain, .float, 0, 100000, 100, 10, 95000, .live, .reed⟩,
   ⟨.reedLossCutoff, .float, 2000000, 800000000, 1000000, 10, 400000000, .loss, .reed⟩,
   ⟨.reedDisp, .float, 0, 800000, 1000, 10, 0, .disp .groupDelay, .reed⟩,
   ⟨.reedDispStages, .int, 0, 4, 1, 1, 4, .disp .stages, .reed⟩]

def bowRows : List ParamRow :=
  [⟨.bowSpeed, .float, 0, 100000, 1000, 10, 25000, .live, .bow⟩,
   ⟨.bowPosition, .float, 1000, 99000, 1000, 10, 12500, .live, .bow⟩,
   ⟨.bowSlope, .float, 0, 1000000, 1000, 10, 300000, .live, .bow⟩,
   ⟨.bowOffset, .float, -100000, 100000, 1000, 10, 0, .live, .bow⟩,
   ⟨.bowReflMin, .float, 0, 100000, 1000, 10, 1000, .live, .bow⟩,
   ⟨.bowReflMax, .float, 0, 100000, 1000, 10, 98000, .live, .bow⟩,
   ⟨.bowAttackMs, .float, 0, 500000000, 100000, 10, 5000000, .env .attack, .bow⟩,
   ⟨.bowReleaseMs, .float, 0, 500000000, 100000, 10, 10000000, .env .release, .bow⟩,
   ⟨.bowLoopGain, .float, 0, 100000, 100, 10, 95000, .live, .bow⟩,
   ⟨.bowLossCutoff, .float, 2000000, 2000000000, 1000000, 10, 600000000, .loss, .bow⟩,
   ⟨.bowLossType, .enum, 0, 1, 1, 1, 0, .lossType, .bow⟩,
   ⟨.bowDisp, .float, 0, 800000, 1000, 10, 0, .disp .groupDelay, .bow⟩,
   ⟨.bowDispStages, .int, 0, 4, 1, 1, 4, .disp .stages, .bow⟩]

/-- The default PARAM_TABLE (47_params R830): slots 0..30. -/
def defaultTable : List ParamRow := stringRows ++ reedRows ++ bowRows

/-- The defaults of 00_scope R8; the thresholds are the binary32 numbers nearest 1e-4, 1e-3 and 1e-3. -/
def defaultParams : Params where
  fs := 48000
  block := 480
  cap := 2048
  nLines := 16
  table := defaultTable
  threshString := 0x38D1B717#32
  threshReed := 0x3A83126F#32
  threshBow := 0x3A83126F#32
  fns := .correctlyRounded

/-- The default configuration, which State.reset has. -/
def default : Cfg := ⟨defaultParams, by decide⟩

/-! ### Configuration functions other than the default (00_scope R16), free values (log 8)

Total functions of their arguments, one of each for every `n` of Functions.given. The laws that a proof may assume of
POW2_32, EXP32, TANH32 and ATAN2_32 are put on them in Machine/ConfigFns.lean. -/

opaque tanFree : Nat → F32 → F32
opaque sinFree : Nat → F32 → F32
opaque cosFree : Nat → F32 → F32
opaque atan2Free : Nat → F32 → F32 → F32
opaque expFree : Nat → F32 → F32
opaque pow2Free : Nat → F32 → F32
opaque pow10Free : Nat → F32 → F32
opaque tanhFree : Nat → F32 → F32

/-! ### Values that the spec leaves open -/

/-- The operations that can produce a NaN: arithmetic (00_scope R12, R13) and the default configuration functions (R16). -/
inductive FpOp where
  | add
  | sub
  | mul
  | div
  | floor
  | tan
  | sin
  | cos
  | atan2
  | exp
  | pow2
  | pow10
  | tanh
  deriving DecidableEq, Repr

/-- Free value (log 6): the bits of the NaN that an operation produces on its operands. 00_scope R12 gives IEEE
arithmetic and R16 IEEE special cases; neither states the sign or the payload of a NaN result. -/
opaque nanBits : FpOp → F32 → F32 → Word

/-- Free value (log 7): `int(x)` of an x that is infinite, a NaN or a fraction; 00_scope R13 defines int only for an
integral x. -/
opaque intOfNonIntegral : F32 → Int

/-- Free value (log 10): whether LF_SetType of an integer other than LPF1 = 0 and LPF2 = 1 sets LPF2; 43_loss R505 defines
it for these two only. -/
opaque setsLpf2 : Int → Bool

/-- Free value (log 10): which slot LIVE[name] means where several rows of a table have the name. -/
opaque slotChoice : ParamName → Nat

end Config
end Sys2Proof
end

