-- ==== Sys2Proof/Machine/Memory.lean ====
section
/-! DEFINITION. The delay-sample memory (20_memory R200): words of one f32 sample at word addresses. It is a list of
(address, sample) pairs in one canonical form: addresses strictly rising, and no entry equal to what an unlisted
address reads as. The unit is the word because no byte address exists (20_memory R206, R208; log 5). -/

namespace Sys2Proof.Machine

/-- What an unlisted word reads as: the reset contents of every sample, +0.0 (10_state R130). -/
def unlistedSample : F32 := 0x00000000#32

abbrev Memory := List (Nat × F32)

namespace Memory

/-- The canonical form. -/
abbrev wf (m : Memory) : Prop :=
  m.Pairwise (fun a b => a.1 < b.1) ∧ ∀ c ∈ m, c.2 ≠ unlistedSample

/-- MemRead(a, 1) (20_memory R200). -/
def read : Memory → Nat → F32
  | [], _ => unlistedSample
  | c :: m, a => if c.1 = a then c.2 else read m a

/-- The memory without an entry for address a, which then reads as unlisted. -/
def erase (m : Memory) (a : Nat) : Memory := m.filter (fun c => c.1 != a)

/-- Put an entry before the first one with a greater address. -/
def insert : Memory → Nat → F32 → Memory
  | [], a, x => [(a, x)]
  | c :: m, a, x => if a < c.1 then (a, x) :: c :: m else c :: insert m a x

/-- MemWrite(a, 1, x) (20_memory R200): writing what an unlisted word reads as removes the entry. -/
def write (m : Memory) (a : Nat) (x : F32) : Memory :=
  if x = unlistedSample then erase m a else insert (erase m a) a x

/-- MemWrite(a, 1, +0.0) for every a of base .. base + n − 1 (the loop of 41_delay_alloc R405). -/
def clearRange (m : Memory) (base n : Nat) : Memory :=
  m.filter (fun c => !(decide (base ≤ c.1) && decide (c.1 < base + n)))

end Memory
end Sys2Proof.Machine
end

