-- ==== Sys2Proof/Machine/Components.lean ====
section
/-! DEFINITION. The types of the block's components (10_state R100–R141): plain data that State is built from. -/

namespace Sys2Proof.Machine

/-! ### Sequencing and modes -/

/-- The ENGINE's block phase PHASE (10_state R100). -/
inductive Phase where
  | idle
  | swap (g : Fin 4)
  | callback (s : Fin 128)
  | apply
  | render
  deriving DecidableEq, Repr

/-- MODE (10_state R115). -/
inductive Mode where
  | run
  | stop
  deriving DecidableEq, Repr

/-- Error codes of STATUS.LAST_ERR (60_exceptions R901); codes 4..15 are never produced. -/
inductive ErrCode where
  | ok
  | illegalCmd
  | illegalState
  | illegalArg
  deriving DecidableEq, Repr

/-- The agents that can move next (00_scope R6): HOST, ENGINE, and the reset input (70_reset R950). -/
inductive Agent where
  | host
  | engine
  | reset
  deriving DecidableEq, Repr

/-! ### Requests and parameters -/

/-- A note-request register REQ[n] (10_state R113). -/
inductive NoteReq where
  | none
  | on (ch : Fin 16) (vel : Fin 128)
  | off
  deriving DecidableEq, Repr

/-- INSTR_REQ: a valid bit and a family (10_state R114). -/
structure InstrReq where
  valid : Bool
  fam : Family
  deriving DecidableEq, Repr

/-- A live value: an f32 for Float slots, an integer for the others (10_state R112). -/
inductive LiveVal where
  | f32 (x : F32)
  | int (n : Int)
  deriving DecidableEq, Repr

/-! ### Delay lines and allocator -/

/-- DL[l].w and DL[l].L (10_state R130); the samples stand in the delay-sample memory. -/
structure DelayLine where
  w : Nat
  len : Nat
  deriving DecidableEq, Repr

/-- The delay-sample memory and the lines' cursors and lengths (10_state R130, 20_memory R200). -/
structure DelayPool where
  mem : Memory
  lines : List DelayLine
  deriving DecidableEq, Repr

/-- OWNER[l] (10_state R131). -/
inductive Owner where
  | free
  | voice (f : Family) (v : Fin 8) (k : Fin 2)
  | host
  deriving DecidableEq, Repr

/-- The DelayAllocator (10_state R131). `avail` is avail[0..top−1] as a stack, avail[top−1] first; top is its
length (entries at or above top are not observable: 93 I11, log 9). -/
structure Allocator where
  avail : List Nat
  owner : List Owner
  deriving DecidableEq, Repr

/-! ### Filters -/

/-- TuningFilter (10_state R132). -/
structure Tuning where
  alpha : F32
  v : F32
  deriving DecidableEq, Repr

/-- Loss filter types (10_state R133). -/
inductive LossType where
  | lpf1
  | lpf2
  deriving DecidableEq, Repr

/-- Loss filter state (10_state R133, 43_loss R500). -/
structure Loss where
  ty : LossType
  fc : F32
  b0 : F32
  b1 : F32
  b2 : F32
  a1 : F32
  a2 : F32
  s1 : F32
  s2 : F32
  deriving DecidableEq, Repr

/-- ThrianDispersion state (10_state R134). -/
structure Dispersion where
  m : Nat
  gd : F32
  alpha : F32
  bypass : Bool
  vs : Vector F32 4
  deriving DecidableEq, Repr

/-! ### Voices -/

/-- voice[f][v] (10_state R132–R139). One shape serves the three families, as the reset sequence writes every field
for every family (70_reset R951): decay, burstLen, p, n and noise are used by String only, env by Reed and Bow,
line1 by Bow (log 16). -/
structure Voice where
  note : Fin 128
  ch : Fin 16
  vel : Fin 128
  amp : F32
  sustaining : Bool
  peak : F32
  line0 : Option Nat
  line1 : Option Nat
  tune : Tuning
  loss : Loss
  disp : Dispersion
  noise : Word
  decay : F32
  burstLen : Nat
  p : Nat
  n : Nat
  env : F32
  deriving DecidableEq, Repr

/-- kA[f] and kR[f] (10_state R140). -/
structure EnvCoefs where
  kA : F32
  kR : F32
  deriving DecidableEq, Repr

/-- PolySynth ps[f] (10_state R141). `used` is used[0..usedCount−1] in order; `unused` is unused[0..unusedCount−1] as
a stack, unused[unusedCount−1] first; the counts are the lengths (log 9). -/
structure PolySynth where
  used : List (Fin 8)
  unused : List (Fin 8)
  rr : Fin 8
  deriving DecidableEq, Repr

/-- One output-block event (46_polysynth R745). -/
structure OutBlock where
  main : List F32
  aux : List F32
  deriving DecidableEq, Repr

/-- Something of each family. -/
structure PerFamily (α : Type) where
  string : α
  reed : α
  bow : α
  deriving DecidableEq, Repr

namespace PerFamily

def get {α : Type} (p : PerFamily α) : Family → α
  | .string => p.string
  | .reed => p.reed
  | .bow => p.bow

def set {α : Type} (p : PerFamily α) (f : Family) (x : α) : PerFamily α :=
  match f with
  | .string => { p with string := x }
  | .reed => { p with reed := x }
  | .bow => { p with bow := x }

end PerFamily

/-- The voices of one family. -/
abbrev Bank := Vector Voice 8

end Sys2Proof.Machine
end

