-- ==== Sys2Proof/Syntax.lean ====
section
/-! DEFINITION. The commands: one constructor per row of spec/opcode_table.json (30_encoding R311). -/

namespace Sys2Proof

open Sys2Proof.Machine (LossType)

/-- A command of the host port with its operands (30_encoding R304–R308). Fields whose every value is legal are `Fin`s
of the field's width; LINE, FAM and STAGES can hold values that a command refuses (60_exceptions R903), so they are
`Nat`s that WellFormed bounds by the field's width. A payload word is kept as its 32 bits (R302). -/
inductive Instr where
  | nop
  | noteOn (ch : Fin 16) (note : Fin 128) (vel : Fin 128)
  | noteOff (note : Fin 128)
  | setInstrument (fam : Nat)
  | forceStopAll
  | readStatus
  | clearStatus (mask : Word)
  | engineStop
  | engineRun
  | paramSet (slot : Fin 128) (raw : Word)
  | paramAdd (slot : Fin 128) (alt : Bool) (delta : Word)
  | paramReset (slot : Fin 128)
  | paramGet (slot : Fin 128)
  | dlPush (line : Nat) (sample : F32)
  | dlGetLast (line : Nat)
  | dlProcess (line : Nat) (sample : F32)
  | dlSetDelay (line : Nat) (length : Word)
  | dlClear (line : Nat)
  | allocGet
  | allocRelease (line : Nat)
  | tfSetDelay (fam : Nat) (voice : Fin 8) (delay : F32)
  | tfProcess (fam : Nat) (voice : Fin 8) (input : F32)
  | lossSetCutoff (fam : Nat) (voice : Fin 8) (hz : F32)
  | lossSetType (fam : Nat) (voice : Fin 8) (ty : LossType)
  | lossProcess (fam : Nat) (voice : Fin 8) (input : F32)
  | lossPhaseDelay (fam : Nat) (voice : Fin 8) (hz : F32)
  | dispSetGD (fam : Nat) (voice : Fin 8) (samples : F32)
  | dispSetStages (fam : Nat) (voice : Fin 8) (stages : Nat)
  | dispProcess (fam : Nat) (voice : Fin 8) (input : F32)
  | dispPhaseDelay (fam : Nat) (voice : Fin 8) (hz : F32)
  | noiseSeed (fam : Nat) (voice : Fin 8) (seed : Word)
  | noiseNext (fam : Nat) (voice : Fin 8)
  deriving DecidableEq, Repr

end Sys2Proof
end

