-- ==== Sys2Proof/WellFormed.lean ====
section
/-! DEFINITION. Which commands have an encoding: LINE, FAM and STAGES fit their fields (30_encoding R306, R307, R308).
A command may be well-formed and still be refused by its argument check (60_exceptions R903). -/

namespace Sys2Proof

/-- LINE is 8 bits wide (R307). -/
def lineFits (line : Nat) : Bool := decide (line < 2 ^ 8)

/-- FAM is 2 bits wide (R306, R308). -/
def famFits (fam : Nat) : Bool := decide (fam < 2 ^ 2)

/-- STAGES is 3 bits wide (R308). -/
def stagesFit (stages : Nat) : Bool := decide (stages < 2 ^ 3)

/-- Every operand fits its field. -/
def Instr.wellFormed : Instr → Bool
  | .nop => true
  | .noteOn _ _ _ => true
  | .noteOff _ => true
  | .setInstrument fam => famFits fam
  | .forceStopAll => true
  | .readStatus => true
  | .clearStatus _ => true
  | .engineStop => true
  | .engineRun => true
  | .paramSet _ _ => true
  | .paramAdd _ _ _ => true
  | .paramReset _ => true
  | .paramGet _ => true
  | .dlPush line _ => lineFits line
  | .dlGetLast line => lineFits line
  | .dlProcess line _ => lineFits line
  | .dlSetDelay line _ => lineFits line
  | .dlClear line => lineFits line
  | .allocGet => true
  | .allocRelease line => lineFits line
  | .tfSetDelay fam _ _ => famFits fam
  | .tfProcess fam _ _ => famFits fam
  | .lossSetCutoff fam _ _ => famFits fam
  | .lossSetType fam _ _ => famFits fam
  | .lossProcess fam _ _ => famFits fam
  | .lossPhaseDelay fam _ _ => famFits fam
  | .dispSetGD fam _ _ => famFits fam
  | .dispSetStages fam _ stages => famFits fam && stagesFit stages
  | .dispProcess fam _ _ => famFits fam
  | .dispPhaseDelay fam _ _ => famFits fam
  | .noiseSeed fam _ _ => famFits fam
  | .noiseNext fam _ => famFits fam

end Sys2Proof
end

