-- ==== Sys2Proof/Decode.lean ====
section
/-! DEFINITION. The decoder of the command port's word stream (30_encoding R300–R315), total on any words and rejecting
by name, and after it the encoder written from the same tables. -/

namespace Sys2Proof

open Sys2Proof.Machine (LossType)

/-! ### Fields of word 0 -/

/-- w[hi:lo], read as an unsigned integer (00_scope R10, 30_encoding R309). -/
def fieldOf (w : Word) (hi lo : Nat) : Nat := (w.toNat >>> lo) % 2 ^ (hi + 1 - lo)

/-- UNIT (R301) -/
def unitOf (w : Word) : Nat := fieldOf w 31 28

/-- OP (R301) -/
def opOf (w : Word) : Nat := fieldOf w 27 24

/-- CH of format N (R304) -/
def chOf (w : Word) : Fin 16 := Fin.ofNat 16 (fieldOf w 19 16)

/-- NOTE of format N (R304) -/
def noteOf (w : Word) : Fin 128 := Fin.ofNat 128 (fieldOf w 14 8)

/-- VEL of format N (R304) -/
def velOf (w : Word) : Fin 128 := Fin.ofNat 128 (fieldOf w 6 0)

/-- SLOT of format S (R305) -/
def slotOf (w : Word) : Fin 128 := Fin.ofNat 128 (fieldOf w 6 0)

/-- ALT of format S (R305) -/
def altOf (w : Word) : Bool := fieldOf w 8 8 == 1

/-- FAM of format I (R306) -/
def instrumentOf (w : Word) : Nat := fieldOf w 1 0

/-- LINE of format L (R307) -/
def lineOf (w : Word) : Nat := fieldOf w 7 0

/-- FAM of format V (R308) -/
def famOf (w : Word) : Nat := fieldOf w 5 4

/-- VOICE of format V (R308) -/
def voiceOf (w : Word) : Fin 8 := Fin.ofNat 8 (fieldOf w 2 0)

/-- TYPE of LOSS_SETTYPE (R308) -/
def typeOf (w : Word) : LossType := if fieldOf w 8 8 = 1 then .lpf2 else .lpf1

/-- STAGES of DISP_SETSTAGES (R308) -/
def stagesOf (w : Word) : Nat := fieldOf w 10 8

/-! ### The opcode map -/

/-- A row of R311: the (UNIT, OP), match and mask, and the command that word 0 and the payload then stand for. -/
structure OpRow where
  unit : Nat
  op : Nat
  pattern : Word
  mask : Word
  build : Word → Word → Instr

def engineRows : List OpRow :=
  [⟨0, 0, 0x00000000#32, 0xFFFFFFFF#32, fun _ _ => .nop⟩,
   ⟨0, 1, 0x01000000#32, 0xFFF08080#32, fun w _ => .noteOn (chOf w) (noteOf w) (velOf w)⟩,
   ⟨0, 2, 0x02000000#32, 0xFFFF80FF#32, fun w _ => .noteOff (noteOf w)⟩,
   ⟨0, 3, 0x03000000#32, 0xFFFFFFFC#32, fun w _ => .setInstrument (instrumentOf w)⟩,
   ⟨0, 4, 0x04000000#32, 0xFFFFFFFF#32, fun _ _ => .forceStopAll⟩,
   ⟨0, 5, 0x05000000#32, 0xFFFFFFFF#32, fun _ _ => .readStatus⟩,
   ⟨0, 6, 0x06000000#32, 0xFFFFFFFF#32, fun _ p => .clearStatus p⟩,
   ⟨0, 7, 0x07000000#32, 0xFFFFFFFF#32, fun _ _ => .engineStop⟩,
   ⟨0, 8, 0x08000000#32, 0xFFFFFFFF#32, fun _ _ => .engineRun⟩]

def paramRows : List OpRow :=
  [⟨1, 0, 0x10000000#32, 0xFFFFFF80#32, fun w p => .paramSet (slotOf w) p⟩,
   ⟨1, 1, 0x11000000#32, 0xFFFFFE80#32, fun w p => .paramAdd (slotOf w) (altOf w) p⟩,
   ⟨1, 2, 0x12000000#32, 0xFFFFFF80#32, fun w _ => .paramReset (slotOf w)⟩,
   ⟨1, 3, 0x13000000#32, 0xFFFFFF80#32, fun w _ => .paramGet (slotOf w)⟩]

def delayRows : List OpRow :=
  [⟨2, 0, 0x20000000#32, 0xFFFFFF00#32, fun w p => .dlPush (lineOf w) p⟩,
   ⟨2, 1, 0x21000000#32, 0xFFFFFF00#32, fun w _ => .dlGetLast (lineOf w)⟩,
   ⟨2, 2, 0x22000000#32, 0xFFFFFF00#32, fun w p => .dlProcess (lineOf w) p⟩,
   ⟨2, 3, 0x23000000#32, 0xFFFFFF00#32, fun w p => .dlSetDelay (lineOf w) p⟩,
   ⟨2, 4, 0x24000000#32, 0xFFFFFF00#32, fun w _ => .dlClear (lineOf w)⟩,
   ⟨3, 0, 0x30000000#32, 0xFFFFFFFF#32, fun _ _ => .allocGet⟩,
   ⟨3, 1, 0x31000000#32, 0xFFFFFF00#32, fun w _ => .allocRelease (lineOf w)⟩]

def filterRows : List OpRow :=
  [⟨4, 0, 0x40000000#32, 0xFFFFFFC8#32, fun w p => .tfSetDelay (famOf w) (voiceOf w) p⟩,
   ⟨4, 1, 0x41000000#32, 0xFFFFFFC8#32, fun w p => .tfProcess (famOf w) (voiceOf w) p⟩,
   ⟨5, 0, 0x50000000#32, 0xFFFFFFC8#32, fun w p => .lossSetCutoff (famOf w) (voiceOf w) p⟩,
   ⟨5, 1, 0x51000000#32, 0xFFFFFEC8#32, fun w _ => .lossSetType (famOf w) (voiceOf w) (typeOf w)⟩,
   ⟨5, 2, 0x52000000#32, 0xFFFFFFC8#32, fun w p => .lossProcess (famOf w) (voiceOf w) p⟩,
   ⟨5, 3, 0x53000000#32, 0xFFFFFFC8#32, fun w p => .lossPhaseDelay (famOf w) (voiceOf w) p⟩,
   ⟨6, 0, 0x60000000#32, 0xFFFFFFC8#32, fun w p => .dispSetGD (famOf w) (voiceOf w) p⟩,
   ⟨6, 1, 0x61000000#32, 0xFFFFF8C8#32, fun w _ => .dispSetStages (famOf w) (voiceOf w) (stagesOf w)⟩,
   ⟨6, 2, 0x62000000#32, 0xFFFFFFC8#32, fun w p => .dispProcess (famOf w) (voiceOf w) p⟩,
   ⟨6, 3, 0x63000000#32, 0xFFFFFFC8#32, fun w p => .dispPhaseDelay (famOf w) (voiceOf w) p⟩,
   ⟨7, 0, 0x70000000#32, 0xFFFFFFC8#32, fun w p => .noiseSeed (famOf w) (voiceOf w) p⟩,
   ⟨7, 1, 0x71000000#32, 0xFFFFFFC8#32, fun w _ => .noiseNext (famOf w) (voiceOf w)⟩]

/-- The complete opcode map (R311). -/
def opRows : List OpRow := engineRows ++ paramRows ++ delayRows ++ filterRows

/-- The row of a (UNIT, OP); a pair without one is reserved (R313). -/
def rowFor (u o : Nat) : Option OpRow := opRows.find? (fun r => r.unit == u && r.op == o)

/-- The (UNIT, OP) pairs of two words (R312). -/
def twoWordOps : List (Nat × Nat) :=
  [(0, 6), (1, 0), (1, 1), (2, 0), (2, 2), (2, 3), (4, 0), (4, 1)] ++
  [(5, 0), (5, 2), (5, 3), (6, 0), (6, 2), (6, 3), (7, 0)]

/-- The length of a command, from its word 0 alone (R300, R312). -/
def cmdLength (w0 : Word) : Nat := if twoWordOps.contains (unitOf w0, opOf w0) then 2 else 1

/-- Why a command is no command (60_exceptions R904). -/
inductive Illegal where
  /-- the (UNIT, OP) is reserved -/
  | reservedOp
  /-- the (UNIT, OP) is defined and a reserved bit is set -/
  | reservedBits
  deriving DecidableEq, Repr

/-- What the port's words hold next. -/
inductive Decoded where
  /-- a command, and the words after it -/
  | command (i : Instr) (rest : List Word)
  /-- a command to refuse with ILLEGAL_CMD, and the words after it: its payload is consumed (R313) -/
  | illegal (why : Illegal) (rest : List Word)
  /-- no whole command yet: there is no word, or the payload word is still to come -/
  | waiting
  deriving DecidableEq, Repr

/-- R315 after the payload has been taken: the row of word 0, and its match under its mask. -/
def classify (w0 payload : Word) (rest : List Word) : Decoded :=
  match rowFor (unitOf w0) (opOf w0) with
  | none => .illegal .reservedOp rest
  | some r => if w0 &&& r.mask = r.pattern then .command (r.build w0 payload) rest else .illegal .reservedBits rest

/-- The decoder (R315). -/
def decode : List Word → Decoded
  | [] => .waiting
  | w0 :: rest =>
    if cmdLength w0 = 2 then
      match rest with
      | [] => .waiting
      | p :: rest => classify w0 p rest
    else classify w0 0#32 rest

/-! ### The encoder -/

/-- A field's value at its place in word 0. -/
def place (n lo : Nat) : Word := BitVec.ofNat 32 n <<< lo

/-- Format N (R304). -/
def formatN (pattern : Word) (ch : Fin 16) (note vel : Fin 128) : Word :=
  pattern ||| place ch 16 ||| place note 8 ||| place vel 0

/-- Format S (R305). -/
def formatS (pattern : Word) (slot : Fin 128) (alt : Bool) : Word := pattern ||| place alt.toNat 8 ||| place slot 0

/-- Format L (R307). -/
def formatL (pattern : Word) (line : Nat) : Word := pattern ||| place line 0

/-- Format V (R308); `arg` is the ARG field. -/
def formatV (pattern : Word) (arg fam : Nat) (voice : Fin 8) : Word :=
  pattern ||| place arg 8 ||| place fam 4 ||| place voice 0

def typeBit : LossType → Nat
  | .lpf1 => 0
  | .lpf2 => 1

/-- The words of a well-formed command (R301–R311). -/
def encode : Instr → List Word
  | .nop => [0x00000000#32]
  | .noteOn ch note vel => [formatN 0x01000000#32 ch note vel]
  | .noteOff note => [formatN 0x02000000#32 0 note 0]
  | .setInstrument fam => [0x03000000#32 ||| place fam 0]
  | .forceStopAll => [0x04000000#32]
  | .readStatus => [0x05000000#32]
  | .clearStatus mask => [0x06000000#32, mask]
  | .engineStop => [0x07000000#32]
  | .engineRun => [0x08000000#32]
  | .paramSet slot raw => [formatS 0x10000000#32 slot false, raw]
  | .paramAdd slot alt delta => [formatS 0x11000000#32 slot alt, delta]
  | .paramReset slot => [formatS 0x12000000#32 slot false]
  | .paramGet slot => [formatS 0x13000000#32 slot false]
  | .dlPush line x => [formatL 0x20000000#32 line, x]
  | .dlGetLast line => [formatL 0x21000000#32 line]
  | .dlProcess line x => [formatL 0x22000000#32 line, x]
  | .dlSetDelay line n => [formatL 0x23000000#32 line, n]
  | .dlClear line => [formatL 0x24000000#32 line]
  | .allocGet => [0x30000000#32]
  | .allocRelease line => [formatL 0x31000000#32 line]
  | .tfSetDelay fam voice d => [formatV 0x40000000#32 0 fam voice, d]
  | .tfProcess fam voice x => [formatV 0x41000000#32 0 fam voice, x]
  | .lossSetCutoff fam voice x => [formatV 0x50000000#32 0 fam voice, x]
  | .lossSetType fam voice ty => [formatV 0x51000000#32 (typeBit ty) fam voice]
  | .lossProcess fam voice x => [formatV 0x52000000#32 0 fam voice, x]
  | .lossPhaseDelay fam voice x => [formatV 0x53000000#32 0 fam voice, x]
  | .dispSetGD fam voice g => [formatV 0x60000000#32 0 fam voice, g]
  | .dispSetStages fam voice stages => [formatV 0x61000000#32 stages fam voice]
  | .dispProcess fam voice x => [formatV 0x62000000#32 0 fam voice, x]
  | .dispPhaseDelay fam voice x => [formatV 0x63000000#32 0 fam voice, x]
  | .noiseSeed fam voice x => [formatV 0x70000000#32 0 fam voice, x]
  | .noiseNext fam voice => [formatV 0x71000000#32 0 fam voice]

/-! ### The table's numbering of an instruction's bits (log 17) -/

/-- The two words of an instruction whose bits are w, numbered as spec/opcode_table.json numbers them: word 0 is bits
31..0 and the payload is bits 63..32; the bits from nbits up are 0. -/
def tableWords (nbits w : Nat) : Word × Word :=
  (BitVec.ofNat 32 (w % 2 ^ nbits), BitVec.ofNat 32 (w % 2 ^ nbits / 2 ^ 32))

/-- The instruction that the decoder reads from those bits. -/
def decodeTableWord (nbits w : Nat) : Option Instr :=
  match decode [(tableWords nbits w).1, (tableWords nbits w).2] with
  | .command i _ => some i
  | .illegal _ _ => none
  | .waiting => none

end Sys2Proof
end

