-- ==== Sys2Proof/Machine/Binary32.lean ====
section
/-! DEFINITION. IEEE 754 binary32 arithmetic on bit patterns (00_scope R12, R13, R14, R17): every operation
computes the exact result in integers and rounds once, to nearest with ties to even. No exception flag, no fused
multiply-add, no flush of subnormals. -/

namespace Sys2Proof.Fp

open Sys2Proof.Config (FpOp)

/-! ### Named constants (00_scope R17, and the literals of the rules) -/

def zero : F32 := 0x00000000#32
def half : F32 := 0x3F000000#32
def threeQuarters : F32 := 0x3F400000#32
def one : F32 := 0x3F800000#32
def minusOne : F32 := 0xBF800000#32
def two : F32 := 0x40000000#32
def twelve : F32 := 0x41400000#32
def f127 : F32 := 0x42FE0000#32
def f440 : F32 := 0x43DC0000#32
def thousand : F32 := 0x447A0000#32
/-- π32 -/
def pi32 : F32 := 0x40490FDB#32
/-- SQRT2_32 -/
def sqrt2 : F32 := 0x3FB504F3#32
/-- DECAY_MAX = 0.9999 -/
def decayMax : F32 := 0x3F7FF972#32
/-- TF_DMAX = 65536.0 -/
def tfDMax : F32 := 0x47800000#32
/-- PSCALE = 100000.0 -/
def pscale : F32 := 0x47C35000#32
/-- 2^-31 (45_voices R600) -/
def twoPowMinus31 : F32 := 0x30000000#32

/-! ### Fields of a bit pattern -/

def isNeg (x : F32) : Bool := x.msb

def expField (x : F32) : Nat := x.toNat / 2 ^ 23 % 2 ^ 8

def fracField (x : F32) : Nat := x.toNat % 2 ^ 23

def isNaN (x : F32) : Bool := expField x == 255 && fracField x != 0

def isInf (x : F32) : Bool := expField x == 255 && fracField x == 0

def isZero (x : F32) : Bool := x.toNat % 2 ^ 31 == 0

/-- The significand of a finite number, as an integer: its value is (−1)^sign · significand · 2^exponent. -/
def significand (x : F32) : Nat := if expField x = 0 then fracField x else 2 ^ 23 + fracField x

/-- The exponent that goes with `significand`. -/
def exponent (x : F32) : Int := if expField x = 0 then -149 else (expField x : Int) - 150

def signedSignificand (x : F32) : Int := if isNeg x then -(significand x : Int) else significand x

/-- Unary minus flips the sign bit exactly (00_scope R12). -/
def neg (x : F32) : F32 := x ^^^ 0x80000000#32

/-- |x| clears the sign bit exactly (00_scope R12). -/
def abs (x : F32) : F32 := x &&& 0x7FFFFFFF#32

/-! ### Rounding -/

/-- A pattern from its sign and its other 31 bits; magnitudes past the largest finite number are infinity. -/
def pack (negative : Bool) (magnitude : Nat) : F32 :=
  BitVec.ofNat 32 ((if negative then 2 ^ 31 else 0) + min magnitude 0x7F800000)

/-- m / 2^k rounded to an integer, to nearest with ties to even. -/
def shiftRne (m k : Nat) : Nat :=
  if 2 * (m % 2 ^ k) > 2 ^ k ∨ (2 * (m % 2 ^ k) = 2 ^ k ∧ m / 2 ^ k % 2 = 1) then m / 2 ^ k + 1 else m / 2 ^ k

/-- The exponent of the last place of the binary32 numbers around m · 2^e, for m ≠ 0. -/
def ulpExponent (m : Nat) (e : Int) : Int := max (e + (Nat.log2 m : Int) - 23) (-149)

/-- (−1)^negative · m · 2^e rounded to binary32, to nearest with ties to even. A result that rounds up to the next
power of two carries into the exponent field by the addition. -/
def round (negative : Bool) (m : Nat) (e : Int) : F32 :=
  if m = 0 then pack negative 0
  else
    let u := ulpExponent m e
    let q := if u ≤ e then m * 2 ^ (e - u).toNat else shiftRne m (u - e).toNat
    pack negative ((u + 149).toNat * 2 ^ 23 + q)

/-- A NaN whose sign and payload are those of `w` where they make one (log 6). -/
def nanFrom (w : Word) : F32 :=
  if w &&& 0x007FFFFF#32 = 0#32 then w ||| 0x7FC00000#32 else w ||| 0x7F800000#32

/-- The NaN that operation `op` produces on x and y: a free value (log 6). -/
def nanOf (op : FpOp) (x y : F32) : F32 := nanFrom (Config.nanBits op x y)

/-! ### The operations -/

/-- The exact sum of two finite numbers, as an integer times 2^(the smaller exponent). -/
def exactSum (x y : F32) : Int :=
  let e := min (exponent x) (exponent y)
  signedSignificand x * 2 ^ (exponent x - e).toNat + signedSignificand y * 2 ^ (exponent y - e).toNat

/-- x + y; `nan` is what an operation without a numeric result gives. A zero sum is −0 only when both are. -/
def sum (nan x y : F32) : F32 :=
  if isNaN x || isNaN y then nan
  else if isInf x then (if isInf y && isNeg x != isNeg y then nan else x)
  else if isInf y then y
  else
    let s := exactSum x y
    if s = 0 then pack (isNeg x && isNeg y) 0
    else round (decide (s < 0)) s.natAbs (min (exponent x) (exponent y))

def add (x y : F32) : F32 := sum (nanOf .add x y) x y

def sub (x y : F32) : F32 := sum (nanOf .sub x y) x (neg y)

def mul (x y : F32) : F32 :=
  let negative := isNeg x != isNeg y
  if isNaN x || isNaN y then nanOf .mul x y
  else if isInf x || isInf y then (if isZero x || isZero y then nanOf .mul x y else pack negative 0x7F800000)
  else round negative (significand x * significand y) (exponent x + exponent y)

/-- The quotient of two finite numbers, y ≠ 0: 50 more bits than the dividend, and one last bit that says whether
anything remains, so that one rounding is exact. -/
def quotient (x y : F32) : Nat :=
  let n := significand x * 2 ^ 50
  2 * (n / significand y) + (if n % significand y = 0 then 0 else 1)

def div (x y : F32) : F32 :=
  let negative := isNeg x != isNeg y
  if isNaN x || isNaN y then nanOf .div x y
  else if isInf x then (if isInf y then nanOf .div x y else pack negative 0x7F800000)
  else if isInf y then pack negative 0
  else if isZero y then (if isZero x then nanOf .div x y else pack negative 0x7F800000)
  else round negative (quotient x y) (exponent x - exponent y - 51)

/-! ### Conversions (00_scope R13) -/

/-- f32(n): the binary32 nearest the integer n, ties to even. -/
def ofInt (n : Int) : F32 := round (decide (n < 0)) n.natAbs 0

/-- The integer floor of a finite number. -/
def floorInt (x : F32) : Int :=
  if 0 ≤ exponent x then signedSignificand x * 2 ^ (exponent x).toNat
  else signedSignificand x / 2 ^ (-exponent x).toNat

/-- FLOOR(x): IEEE roundToIntegralTowardNegative, which is exact and keeps the sign of a zero. -/
def floor (x : F32) : F32 :=
  if isNaN x then nanOf .floor x x
  else if isInf x then x
  else if 0 ≤ exponent x then x
  else if floorInt x = 0 then pack (isNeg x) 0
  else round (decide (floorInt x < 0)) (floorInt x).natAbs 0

/-- Whether a finite number is an integer. -/
def isIntegral (x : F32) : Bool := significand x % 2 ^ (-exponent x).toNat == 0

/-- int(x) of an integral f32; of an infinity, a NaN or a fraction a free value (log 7). -/
def toInt (x : F32) : Int :=
  if isNaN x || isInf x || !isIntegral x then Config.intOfNonIntegral x else floorInt x

/-! ### Comparisons (00_scope R13): false with a NaN operand; both zeros are equal -/

/-- An integer that orders the numbers that are not NaNs. -/
def orderKey (x : F32) : Int := if isNeg x then -((x.toNat % 2 ^ 31 : Nat) : Int) else ((x.toNat % 2 ^ 31 : Nat) : Int)

def lt (x y : F32) : Bool := !isNaN x && !isNaN y && decide (orderKey x < orderKey y)

def le (x y : F32) : Bool := !isNaN x && !isNaN y && decide (orderKey x ≤ orderKey y)

/-! ### min, max and clamp (00_scope R14): a NaN x passes through -/

def max (x lo : F32) : F32 := if lt x lo then lo else x

def min (x hi : F32) : F32 := if lt hi x then hi else x

def clamp (x lo hi : F32) : F32 := min (max x lo) hi

/-- The integer clamp of 00_scope R14, used with lo ≤ hi. -/
def clampInt (n lo hi : Int) : Int := if n < lo then lo else if hi < n then hi else n

end Sys2Proof.Fp
end

