-- ==== Sys2Proof/Machine/Lines.lean ====
section
/-! DEFINITION. The delay-line functions and the allocator's stack operations (41_delay_alloc R401–R405, R420–R423), as
the voices, the commands and the reset sequence share them. -/

namespace Sys2Proof.Machine

/-! ### Delay lines -/

namespace DelayPool

/-- DL[l].w and DL[l].L -/
def line (d : DelayPool) (l : Nat) : DelayLine := d.lines.getD l ⟨0, 0⟩

def setLine (d : DelayPool) (l : Nat) (x : DelayLine) : DelayPool := { d with lines := d.lines.set l x }

/-- The word address of DL[l].buf[i] (20_memory R200). -/
def address (cap l i : Nat) : Nat := l * cap + i

/-- i & (C − 1) of an integer i, C a power of two: i mod C (41_delay_alloc R412). -/
def index (cap : Nat) (i : Int) : Nat := (i % (cap : Int)).toNat

/-- The word address that GetLast(l) reads (41_delay_alloc R402). -/
def lastAddress (cap : Nat) (d : DelayPool) (l : Nat) : Nat :=
  address cap l (index cap ((d.line l).w - (d.line l).len : Int))

/-- Push(l, x) (41_delay_alloc R401): write, then advance. -/
def push (cap : Nat) (d : DelayPool) (l : Nat) (x : F32) : DelayPool :=
  { mem := d.mem.write (address cap l (d.line l).w) x
    lines := d.lines.set l { d.line l with w := index cap ((d.line l).w + 1 : Int) } }

/-- GetLast(l) (41_delay_alloc R402). -/
def getLast (cap : Nat) (d : DelayPool) (l : Nat) : F32 := d.mem.read (lastAddress cap d l)

/-- SetDelay(l, n) (41_delay_alloc R403): clamp to 0 .. C − 1. -/
def setDelay (cap : Nat) (d : DelayPool) (l : Nat) (n : Int) : DelayPool :=
  d.setLine l { d.line l with len := (Fp.clampInt n 0 ((cap : Int) - 1)).toNat }

/-- Process(l, x) (41_delay_alloc R404): push, then read with the advanced cursor. -/
def process (cap : Nat) (d : DelayPool) (l : Nat) (x : F32) : DelayPool × F32 :=
  (push cap d l x, getLast cap (push cap d l x) l)

/-- Clear(l) (41_delay_alloc R405): every sample +0.0 and the cursor 0; L is kept. -/
def clear (cap : Nat) (d : DelayPool) (l : Nat) : DelayPool :=
  { mem := d.mem.clearRange (address cap l 0) cap
    lines := d.lines.set l { d.line l with w := 0 } }

end DelayPool

/-! ### Allocator -/

namespace Allocator

/-- Pop(owner) (41_delay_alloc R420). -/
def pop (a : Allocator) (o : Owner) : Option Nat × Allocator :=
  match a.avail with
  | [] => (none, a)
  | l :: rest => (some l, { avail := rest, owner := a.owner.set l o })

/-- Push_avail(l) (41_delay_alloc R421). DEDUCED (log 22): the pseudocode is taken as it stands, so a HOST that releases lines in
another order than the reverse of getting them leaves the stack permuted, and later checkouts with it, where R423, R422 and
46_polysynth R713 say that with no line held by the HOST every switch starts from the reset order. -/
def pushAvail (a : Allocator) (l : Nat) : Allocator := { avail := l :: a.avail, owner := a.owner.set l .free }

/-- OWNER[l] -/
def ownerOf (a : Allocator) (l : Nat) : Owner := a.owner.getD l .free

end Allocator

/-! ### Line references of a voice -/

namespace Voice

/-- line[k] -/
def line (V : Voice) (k : Fin 2) : Option Nat := if k = 0 then V.line0 else V.line1

def setLine (V : Voice) (k : Fin 2) (l : Option Nat) : Voice :=
  if k = 0 then { V with line0 := l } else { V with line1 := l }

end Voice

/-- The voice indices 0 .. 7 in order. -/
def allVoices : List (Fin 8) := [0, 1, 2, 3, 4, 5, 6, 7]

/-- The line slots k < nk(f): nk = 1, 1, 2 (10_state R136, 41_delay_alloc R422). -/
def lineSlots : Family → List (Fin 2)
  | .string => [0]
  | .reed => [0]
  | .bow => [0, 1]

/-- The (v, k) of a family in checkout order (41_delay_alloc R422). -/
def lineKeys (f : Family) : List (Fin 8 × Fin 2) := allVoices.flatMap fun v => (lineSlots f).map fun k => (v, k)

/-- What Checkout and Release work on: the allocator, the family's voices and ALLOC_FAIL. -/
structure Holding where
  alloc : Allocator
  bank : Bank
  allocFail : Bool
  deriving DecidableEq, Repr

/-- One step of Checkout(f) (41_delay_alloc R422). -/
def checkoutOne (f : Family) (h : Holding) (vk : Fin 8 × Fin 2) : Holding :=
  let r := h.alloc.pop (.voice f vk.1 vk.2)
  { alloc := r.2
    bank := h.bank.set vk.1 (h.bank[vk.1].setLine vk.2 r.1)
    allocFail := h.allocFail || r.1.isNone }

/-- Checkout(f) (41_delay_alloc R422). -/
def checkout (f : Family) (h : Holding) : Holding := (lineKeys f).foldl (checkoutOne f) h

/-- One step of Release(f) (41_delay_alloc R423). -/
def releaseOne (h : Holding) (vk : Fin 8 × Fin 2) : Holding :=
  { h with
    alloc := match h.bank[vk.1].line vk.2 with
      | some l => h.alloc.pushAvail l
      | none => h.alloc
    bank := h.bank.set vk.1 (h.bank[vk.1].setLine vk.2 none) }

/-- Release(f) (41_delay_alloc R423): voices 7 down to 0, each one's lines last-acquired first. -/
def release (f : Family) (h : Holding) : Holding := (lineKeys f).reverse.foldl releaseOne h

end Sys2Proof.Machine
end

