-- ==== Sys2Proof/Machine/Elementary.lean ====
section
/-! DEFINITION. The default configuration functions of 00_scope R16: the real functions correctly rounded to binary32, with
the special-case values of IEEE 754-2019 §9.2. A magnitude is a natural number N that stands for N / 2^prec; every finite
binary32 number is one exactly. A result is taken one bit past N as not exact and rounded once. That `prec` bits decide
every rounding is UNVERIFIED (log 8). -/

namespace Sys2Proof.Elementary

open Sys2Proof.Fp
open Sys2Proof.Config (FpOp)

/-! ### Fixed-point numbers -/

/-- The fraction bits. The least difference to be seen is that of arctan q from q where q, a multiple of 2^-150, lies half
way between two subnormals: about 2^-450. -/
def prec : Nat := 672

/-- 1 -/
def unit : Nat := 2 ^ prec

/-- a · b -/
def times (a b : Nat) : Nat := a * b / unit

/-- a / b -/
def ratio (a b : Nat) : Nat := a * unit / b

/-- |x| of a finite number, exact. -/
def magnitude (x : F32) : Nat := significand x * 2 ^ ((prec : Int) + exponent x).toNat

/-- The binary32 number nearest (−1)^negative · 2^e · v, where v lies strictly between N and N + 1 units of the last place. -/
def rounded (negative : Bool) (N : Nat) (e : Int) : F32 := Fp.round negative (2 * N + 1) (e - prec - 1)

/-! ### Series, summed until a term is 0 -/

/-- t/(2i+1) ± t·sq/(2i+3) + …: from i = 0 and t = x with sq = x², artanh x, or arctan x where the signs alternate. -/
def oddSeries (alternate : Bool) (sq : Nat) : (fuel i t : Nat) → Nat
  | 0, _, _ => 0
  | fuel + 1, i, t =>
    if t = 0 then 0
    else
      let rest := oddSeries alternate sq fuel (i + 1) (times t sq)
      if alternate then t / (2 * i + 1) - rest else t / (2 * i + 1) + rest

/-- t + t·x/(i+1) + …: from i = 0 and t = 1, e^x. -/
def expSeries (x : Nat) : (fuel i t : Nat) → Nat
  | 0, _, _ => 0
  | fuel + 1, i, t => if t = 0 then 0 else t + expSeries x fuel (i + 1) (times t x / (i + 1))

/-- t − t·sq/((i+1)(i+2)) + …: with sq = x², cos x from i = 0 and t = 1, and sin x from i = 1 and t = x. -/
def trigSeries (sq : Nat) : (fuel i t : Nat) → Nat
  | 0, _, _ => 0
  | fuel + 1, i, t =>
    if t = 0 then 0 else t - trigSeries sq fuel (i + 2) (times t sq / ((i + 1) * (i + 2)))

/-- arctan x, or artanh x, for 0 ≤ x ≤ 1/2. -/
def arcSmall (alternate : Bool) (x : Nat) : Nat := oddSeries alternate (times x x) prec 0 x

/-- π = 16·arctan(1/5) − 4·arctan(1/239) -/
def pi : Nat := 16 * arcSmall true (unit / 5) - 4 * arcSmall true (unit / 239)

/-- ln 2 = 2·artanh(1/3) -/
def ln2 : Nat := 2 * arcSmall false (unit / 3)

/-- ln 10 = 3·ln 2 + 2·artanh(1/9) -/
def ln10 : Nat := 3 * ln2 + 2 * arcSmall false (unit / 9)

/-! ### Tangent, sine and cosine -/

/-- The quarter turns in a magnitude, and the angle that remains. -/
def quarterTurns (X : Nat) : Nat × Nat := (X / (pi / 2), X % (pi / 2))

def sinSmall (r : Nat) : Nat := trigSeries (times r r) prec 1 r

def cosSmall (r : Nat) : Nat := trigSeries (times r r) prec 0 unit

/-- sin of r plus n quarter turns: whether it is negative, and its magnitude. -/
def sinTurned (n r : Nat) : Bool × Nat := (decide (2 ≤ n % 4), if n % 2 = 0 then sinSmall r else cosSmall r)

/-- sin; of an infinity a NaN, of a zero that zero. -/
def sin (x : F32) : F32 :=
  if isNaN x || isInf x then nanOf .sin x x
  else if isZero x then x
  else
    let a := quarterTurns (magnitude x)
    let r := sinTurned a.1 a.2
    rounded (isNeg x != r.1) r.2 0

/-- cos, a quarter turn ahead of sin; of an infinity a NaN, of a zero 1. -/
def cos (x : F32) : F32 :=
  if isNaN x || isInf x then nanOf .cos x x
  else if isZero x then one
  else
    let a := quarterTurns (magnitude x)
    let r := sinTurned (a.1 + 1) a.2
    rounded r.1 r.2 0

/-- tan; of an infinity a NaN, of a zero that zero. -/
def tan (x : F32) : F32 :=
  if isNaN x || isInf x then nanOf .tan x x
  else if isZero x then x
  else
    let a := quarterTurns (magnitude x)
    if a.1 % 2 = 0 then rounded (isNeg x) (ratio (sinSmall a.2) (cosSmall a.2)) 0
    else rounded (!isNeg x) (ratio (cosSmall a.2) (sinSmall a.2)) 0

/-! ### Arctangent of a quotient -/

/-- arctan x for 0 ≤ x ≤ 1: past 1/2, π/4 − arctan((1 − x)/(1 + x)). -/
def arctan (x : Nat) : Nat :=
  if 2 * x ≤ unit then arcSmall true x else pi / 4 - arcSmall true (ratio (unit - x) (unit + x))

/-- arctan(Y/X) for Y, X > 0. -/
def arctanQuotient (Y X : Nat) : Nat := if Y ≤ X then arctan (ratio Y X) else pi / 2 - arctan (ratio X Y)

/-- atan2 of a y that is not negative, from |y| and x, both finite and neither zero. -/
def atan2Upper (Y : Nat) (x : F32) : Nat :=
  if isNeg x then pi - arctanQuotient Y (magnitude x) else arctanQuotient Y (magnitude x)

/-- atan2(y, x): the sign is that of y. -/
def atan2 (y x : F32) : F32 :=
  if isNaN y || isNaN x then nanOf .atan2 y x
  else if isInf y then
    rounded (isNeg y) (if isInf x then (if isNeg x then 3 * pi / 4 else pi / 4) else pi / 2) 0
  else if isZero y || isInf x then (if isNeg x then rounded (isNeg y) pi 0 else pack (isNeg y) 0)
  else if isZero x then rounded (isNeg y) (pi / 2) 0
  else rounded (isNeg y) (atan2Upper (magnitude y) x) 0

/-! ### Powers and the hyperbolic tangent -/

/-- e^Y as N · 2^k: Y = k·ln 2 + r, and N is e^r. -/
def expSplit (Y : Int) : Nat × Int := (expSeries (Y % (ln2 : Int)).toNat prec 0 unit, Y / (ln2 : Int))

/-- b^x, where `lnBase` is ln b; from `high` up it overflows, and from −`low` down it rounds to +0.0. b^±0 is 1. -/
def power (op : FpOp) (lnBase high low : Nat) (x : F32) : F32 :=
  if isNaN x then nanOf op x x
  else if isZero x then one
  else if isInf x || decide ((if isNeg x then low else high) * unit ≤ magnitude x) then
    (if isNeg x then zero else pack false 0x7F800000)
  else
    let Y := times (magnitude x) lnBase
    let r := expSplit (if isNeg x then -(Y : Int) else Y)
    rounded false r.1 r.2

/-- e^x -/
def exp (x : F32) : F32 := power .exp unit 128 128 x

/-- 2^x; 2^-150 is half the least subnormal and rounds to the even +0.0. -/
def pow2 (x : F32) : F32 := power .pow2 ln2 128 150 x

/-- 10^x -/
def pow10 (x : F32) : F32 := power .pow10 ln10 64 64 x

/-- tanh x = (e^2x − 1)/(e^2x + 1); of a zero that zero, and from 32 up it rounds to ±1. -/
def tanh (x : F32) : F32 :=
  if isNaN x then nanOf .tanh x x
  else if isZero x then x
  else if isInf x || decide (32 * unit ≤ magnitude x) then (if isNeg x then minusOne else one)
  else
    let r := expSplit (2 * magnitude x : Nat)
    let E := r.1 * 2 ^ r.2.toNat
    rounded (isNeg x) (ratio (E - unit) (E + unit)) 0

end Sys2Proof.Elementary
end

