-- ==== Sys2Proof/Machine/ConfigFns.lean ====
section
/-! DEFINITION. The configuration functions of 00_scope R16: the default ones, correctly rounded, or the free functions that a
configuration gives. The laws that a proof may assume are put on both. They change no value of a function that obeys
them, so every such function is one of these (log 8). -/

namespace Sys2Proof.Fp

open Sys2Proof.Config (Functions)

/-- y where it lies in [lo, hi], else +0.0. -/
def within (lo hi y : F32) : F32 := if le lo y && le y hi then y else zero

/-- TAN32: no law. -/
def tan32 (fns : Functions) (x : F32) : F32 :=
  match fns with
  | .correctlyRounded => Elementary.tan x
  | .given n => Config.tanFree n x

/-- SIN32: no law. -/
def sin32 (fns : Functions) (x : F32) : F32 :=
  match fns with
  | .correctlyRounded => Elementary.sin x
  | .given n => Config.sinFree n x

/-- COS32: no law. -/
def cos32 (fns : Functions) (x : F32) : F32 :=
  match fns with
  | .correctlyRounded => Elementary.cos x
  | .given n => Config.cosFree n x

/-- ATAN2_32(y, x) before its law. -/
def atan2Raw (fns : Functions) (y x : F32) : F32 :=
  match fns with
  | .correctlyRounded => Elementary.atan2 y x
  | .given n => Config.atan2Free n y x

/-- ATAN2_32(y, x): in [−π32, π32] for arguments that are not NaNs. -/
def atan2 (fns : Functions) (y x : F32) : F32 :=
  if isNaN y || isNaN x then atan2Raw fns y x else within (neg pi32) pi32 (atan2Raw fns y x)

/-- EXP32: EXP32(0) = 1, the 0 read as +0.0 (log 8). -/
def exp32 (fns : Functions) (x : F32) : F32 :=
  if x = zero then one
  else match fns with
    | .correctlyRounded => Elementary.exp x
    | .given n => Config.expFree n x

/-- POW2_32(x) = 2^x: POW2_32(0) = 1, the 0 read as +0.0 (log 8). -/
def pow2 (fns : Functions) (x : F32) : F32 :=
  if x = zero then one
  else match fns with
    | .correctlyRounded => Elementary.pow2 x
    | .given n => Config.pow2Free n x

/-- POW10_32(x) = 10^x: no law. -/
def pow10 (fns : Functions) (x : F32) : F32 :=
  match fns with
  | .correctlyRounded => Elementary.pow10 x
  | .given n => Config.pow10Free n x

/-- TANH32(x) before its laws. -/
def tanhRaw (fns : Functions) (x : F32) : F32 :=
  match fns with
  | .correctlyRounded => Elementary.tanh x
  | .given n => Config.tanhFree n x

/-- TANH32 of an x whose sign bit is clear: in [−1, 1] unless x is a NaN. -/
def tanhMagnitude (fns : Functions) (x : F32) : F32 :=
  if isNaN x then tanhRaw fns x else within minusOne one (tanhRaw fns x)

/-- TANH32: odd, at a NaN too (log 8), and in [−1, 1] for an x that is not a NaN. -/
def tanh32 (fns : Functions) (x : F32) : F32 :=
  if isNeg x then neg (tanhMagnitude fns (neg x)) else tanhMagnitude fns x

end Sys2Proof.Fp
end

