-- ==== Sys2Proof/Machine/Filters.lean ====
section
/-! DEFINITION. The component functions of the filters, the noise generator and the envelopes: 42_tuning R450, R452;
43_loss R500–R505; 44_dispersion R551–R554; 45_voices R600, R640, R641. Evaluation order is the parenthesised order
of the rules (00_scope R12). -/

namespace Sys2Proof.Machine

open Sys2Proof.Fp
open Sys2Proof.Config (Params)

/-! ### TuningFilter -/

/-- TF_Split(t, d) (42_tuning R450): the filter with its new coefficient, and the integer part. -/
def tfSplit (t : Tuning) (d : F32) : Tuning × Int :=
  if isNaN d || lt d half then ({ t with alpha := zero }, 0)
  else
    let d := Fp.min d tfDMax
    let ip := floor d
    let f := sub d ip
    let i := toInt ip
    if lt f half then
      let f := add f one
      ({ t with alpha := div (sub one f) (add one f) }, i - 1)
    else ({ t with alpha := div (sub one f) (add one f) }, i)

/-- TF_Step(t, x) (42_tuning R452): the filter after the step, and the output. DEDUCED (log 20): the pseudocode is taken under
IEEE arithmetic with alpha = 0 too, where 0·v is a NaN for an infinite or NaN v and so v becomes a NaN; R452's prose says
that such a v is replaced by x. -/
def tfStep (t : Tuning) (x : F32) : Tuning × F32 :=
  let t2 := sub x (mul t.alpha t.v)
  ({ t with v := t2 }, add t.v (mul t.alpha t2))

/-! ### Loss filter -/

/-- The kinds of loss filter (43_loss R500): a Lowpass for String and Bow, an OnePoleFilter for Reed. -/
inductive LossKind where
  | lowpass
  | onePole
  deriving DecidableEq, Repr

def lossKind : Family → LossKind
  | .string => .lowpass
  | .reed => .onePole
  | .bow => .lowpass

/-- CEIL: 20000.0 for a Lowpass, 8000.0 for an OnePoleFilter (43_loss R500). -/
def ceilingOf : LossKind → F32
  | .lowpass => 0x469C4000#32
  | .onePole => 0x45FA0000#32

/-- f32(FS) -/
def fsF32 (p : Params) : F32 := ofInt p.fs

/-- LF_Design(F) (43_loss R501). DEDUCED (log 23): the pseudocode is taken under IEEE arithmetic for fc = −0.0 too, where LPF1 gets
b0 = b1 = −0.0; R510's corner case says the same coefficients as for +0.0, which are +0.0. -/
def lfDesign (p : Params) (F : Loss) : Loss :=
  let K := tan32 p.fns (div (mul pi32 F.fc) (fsF32 p))
  match F.ty with
  | .lpf1 =>
    let den := add one K
    let b0 := div K den
    { F with b0 := b0, b1 := b0, b2 := zero, a1 := div (sub K one) den, a2 := zero }
  | .lpf2 =>
    let kq := mul K sqrt2
    let kk := mul K K
    let norm := div one (add (add one kq) kk)
    let b0 := mul kk norm
    { F with
      b0 := b0
      b1 := mul two b0
      b2 := b0
      a1 := mul (mul two (sub kk one)) norm
      a2 := mul (add (sub one kq) kk) norm }

/-- LF_Step(F, x) (43_loss R502). -/
def lfStep (F : Loss) (x : F32) : Loss × F32 :=
  let y := add (mul F.b0 x) F.s1
  match F.ty with
  | .lpf1 => ({ F with s1 := sub (mul F.b1 x) (mul F.a1 y) }, y)
  | .lpf2 =>
    ({ F with
       s1 := add (sub (mul F.b1 x) (mul F.a1 y)) F.s2
       s2 := sub (mul F.b2 x) (mul F.a2 y) }, y)

/-- ω = ((2.0·π32)·freq)/f32(FS) (43_loss R503, 44_dispersion R552). -/
def omega (p : Params) (freq : F32) : F32 := div (mul (mul two pi32) freq) (fsF32 p)

/-- `isNaN(freq) or not (freq > 0.0)` (43_loss R503, 44_dispersion R552). -/
def notPositive (x : F32) : Bool := isNaN x || !lt zero x

/-- LF_PhaseDelay(F, freq) (43_loss R503). -/
def lfPhaseDelay (p : Params) (F : Loss) (freq : F32) : F32 :=
  if notPositive freq then zero
  else
    let w := omega p freq
    let c := cos32 p.fns w
    let sn := sin32 p.fns w
    match F.ty with
    | .lpf1 =>
      let br := add F.b0 (mul F.b1 c)
      let bi := neg (mul F.b1 sn)
      let ar := add one (mul F.a1 c)
      let ai := neg (mul F.a1 sn)
      div (neg (sub (atan2 p.fns bi br) (atan2 p.fns ai ar))) w
    | .lpf2 =>
      let w2 := mul two w
      let c2 := cos32 p.fns w2
      let s2 := sin32 p.fns w2
      let br := add (add F.b0 (mul F.b1 c)) (mul F.b2 c2)
      let bi := neg (add (mul F.b1 sn) (mul F.b2 s2))
      let ar := add (add one (mul F.a1 c)) (mul F.a2 c2)
      let ai := neg (add (mul F.a1 sn) (mul F.a2 s2))
      div (neg (sub (atan2 p.fns bi br) (atan2 p.fns ai ar))) w

/-- LF_SetCutoff(F, x) (43_loss R504): clamp and redesign, the cells kept. -/
def lfSetCutoff (p : Params) (kind : LossKind) (F : Loss) (x : F32) : Loss :=
  let x := if isNaN x then zero else x
  lfDesign p { F with fc := Fp.clamp x zero (ceilingOf kind) }

/-- LF_SetType(F, t) (43_loss R505): the cells zeroed, and a redesign. -/
def lfSetType (p : Params) (F : Loss) (t : LossType) : Loss :=
  lfDesign p { F with ty := t, s1 := zero, s2 := zero }

/-! ### ThrianDispersion -/

/-- One stage of DP_Step (44_dispersion R551): stage k of the chain on the running value. -/
def dpStage (Dx : Dispersion × F32) (k : Fin 4) : Dispersion × F32 :=
  let t2 := sub Dx.2 (mul Dx.1.alpha Dx.1.vs[k])
  let y := add Dx.1.vs[k] (mul Dx.1.alpha t2)
  ({ Dx.1 with vs := Dx.1.vs.set k t2 }, y)

/-- The stages 0 .. M − 1 in order. -/
def dpStages (m : Nat) : List (Fin 4) := [(0 : Fin 4), 1, 2, 3].take m

/-- DP_Step(D, x) (44_dispersion R551). -/
def dpStep (D : Dispersion) (x : F32) : Dispersion × F32 :=
  if D.bypass then (D, x) else (dpStages D.m).foldl dpStage (D, x)

/-- DP_PhaseDelay(D, freq) (44_dispersion R552). -/
def dpPhaseDelay (p : Params) (D : Dispersion) (freq : F32) : F32 :=
  if D.bypass || notPositive freq then zero
  else
    let w := omega p freq
    let c := cos32 p.fns w
    let sn := sin32 p.fns w
    let br := add D.alpha c
    let bi := neg sn
    let ar := add one (mul D.alpha c)
    let ai := neg (mul D.alpha sn)
    let ps := sub (atan2 p.fns bi br) (atan2 p.fns ai ar)
    mul (ofInt D.m) (div (neg ps) w)

/-- DP_Recompute(D) (44_dispersion R553). DEDUCED (log 21): the pseudocode is taken under IEEE arithmetic for d above 2^-25 and up
to 2^-24 too, where 1.0 + d rounds to 1.0, 1.0 − d does not, and alpha is 0x3F7FFFFF; R560's corner case says 1.0. -/
def dpRecompute (D : Dispersion) : Dispersion :=
  if D.m = 0 || !lt zero D.gd then { D with bypass := true, alpha := zero }
  else
    let d := div D.gd (ofInt D.m)
    { D with bypass := false, alpha := div (sub one d) (add one d) }

/-- DP_SetGD(D, g) (44_dispersion R554). -/
def dpSetGD (D : Dispersion) (g : F32) : Dispersion :=
  dpRecompute { D with gd := if isNaN g then zero else Fp.min g tfDMax }

/-- DP_SetStages(D, m) (44_dispersion R554). -/
def dpSetStages (D : Dispersion) (m : Nat) : Dispersion := dpRecompute { D with m := m }

/-! ### Noise -/

/-- NZ_Next(N) (45_voices R600): the next LCG state. -/
def nzAdvance (s : Word) : Word := s * 1664525#32 + 1013904223#32

/-- The output that goes with an LCG state (45_voices R600): f32(sext_32(s)) · 2^-31. -/
def nzOutput (s : Word) : F32 := mul (ofInt s.toInt) twoPowMinus31

/-! ### Envelopes -/

/-- envCoef(ms) (45_voices R640). -/
def envCoef (p : Params) (ms : F32) : F32 :=
  if lt zero ms then sub one (exp32 p.fns (neg (div thousand (mul (fsF32 p) ms)))) else one

/-- EnvStep(e, target, kA, kR) (45_voices R641). -/
def envStep (e target : F32) (k : EnvCoefs) : F32 :=
  add e (mul (sub target e) (if lt e target then k.kA else k.kR))

end Sys2Proof.Machine
end

