-- ==== Sys2Proof/Machine/Registers.lean ====
section
/-! DEFINITION. The parameter table as the callbacks and the voices read it (47_params R811, R821, R830): where a slot
is, what its live value is, and the filter settings that live values give. -/

namespace Sys2Proof.Machine

open Sys2Proof.Config (Params ParamRow ParamName Callback Kind)

/-- liveOf(s, raw) (47_params R811): f32(raw)/100000.0 for a Float slot, the integer for the others. -/
def liveOf (r : ParamRow) (raw : Int) : LiveVal :=
  match r.kind with
  | .float => .f32 (Fp.div (Fp.ofInt raw) Fp.pscale)
  | .int => .int raw
  | .bool => .int raw
  | .enum => .int raw

/-- A live value read as an f32. That an integer stands for f32(n) is DEDUCED (log 15). -/
def LiveVal.asF32 : LiveVal → F32
  | .f32 x => x
  | .int n => Fp.ofInt n

/-- A live value read as an integer: of an f32, int(x), a free value where x is no integer (log 7, log 15). -/
def LiveVal.asInt : LiveVal → Int
  | .f32 x => Fp.toInt x
  | .int n => n

/-- A live value read as a stage count, which lies in 0 .. 4 (44_dispersion R554): a free value within them where the live
value is no integer (log 15). -/
def LiveVal.asStages (x : LiveVal) : Nat := (Fp.clampInt x.asInt 0 4).toNat

/-- LIVE[i], of the live values of all slots. -/
def liveAt (live : List LiveVal) (i : Nat) : LiveVal := live.getD i (.int 0)

/-- The slots of the rows that meet a condition, in ascending order. -/
def slotsWhere (t : List ParamRow) (c : ParamRow → Bool) : List Nat := (t.zipIdx.filter fun ri => c ri.1).map (·.2)

/-- The slot of a name that 45_voices reads (47_params R830); where several rows have it, a free choice of them (log 10). -/
def slotOfName (t : List ParamRow) (n : ParamName) : Nat :=
  match slotsWhere t (Config.rowNamed n) with
  | [i] => i
  | is => is.getD (Config.slotChoice n % is.length) 0

/-- The slot of a callback class in a family: the cutoff, type, DISP, STAGES, ATTACK or RELEASE slot of f. -/
def slotOfClass (t : List ParamRow) (cb : Callback) (f : Family) : Nat :=
  t.findIdx (fun r => r.cb == cb && r.fam == f)

/-- LIVE[name] -/
def liveByName (t : List ParamRow) (live : List LiveVal) (n : ParamName) : LiveVal := liveAt live (slotOfName t n)

/-- LIVE[the class's slot of f] -/
def liveByClass (t : List ParamRow) (live : List LiveVal) (cb : Callback) (f : Family) : LiveVal :=
  liveAt live (slotOfClass t cb f)

/-- The loss type that an integer live value names: LPF1 = 0, LPF2 = 1 (10_state R133), of another a free value (log 10). -/
def lossTypeOf (n : Int) : LossType :=
  if n = 0 then .lpf1 else if n = 1 then .lpf2 else if Config.setsLpf2 n then .lpf2 else .lpf1

/-- The loss type of family f as its LIVE values give it at reset: as if every callback had run once (47_params R832), in
ascending slot order, so the last type slot of f decides; LPF1 where f has none, as Reed (log 10). -/
def lossTypeFromLive (t : List ParamRow) (live : List LiveVal) (f : Family) : LossType :=
  match (slotsWhere t fun r => r.cb == .lossType && r.fam == f).getLast? with
  | some i => lossTypeOf (liveAt live i).asInt
  | none => .lpf1

/-- DP_SetStages then DP_SetGD from the family's live values (47_params R821, 70_reset R951). -/
def dispFromLive (t : List ParamRow) (live : List LiveVal) (f : Family) (D : Dispersion) : Dispersion :=
  dpSetGD (dpSetStages D (liveByClass t live (.disp .stages) f).asStages)
    (liveByClass t live (.disp .groupDelay) f).asF32

/-- kA[f] and kR[f] from the family's live ATTACK and RELEASE values (45_voices R640, 47_params R821). That the slots are those
of the classes, where the rows that R640 names are others, is DEDUCED (log 10). -/
def envFromLive (p : Params) (live : List LiveVal) (f : Family) : EnvCoefs where
  kA := envCoef p (liveByClass p.table live (.env .attack) f).asF32
  kR := envCoef p (liveByClass p.table live (.env .release) f).asF32

end Sys2Proof.Machine
end

