-- ==== Sys2Proof/Machine/ResetValues.lean ====
section
/-! DEFINITION. The reset sequence's values for each component (70_reset R951), which State.reset puts together. -/

namespace Sys2Proof.Machine

open Sys2Proof.Config (Params)

/-- RAW at reset: default_s (step 0). -/
def resetRaw (p : Params) : List Word := p.table.map fun r => BitVec.ofInt 32 r.defaultVal

/-- LIVE at reset: liveOf(s, default_s) (step 0). -/
def resetLive (p : Params) : List LiveVal := p.table.map fun r => liveOf r r.defaultVal

/-- The lines at reset (step 1): every sample +0.0, so nothing listed; w = 0, L = 0. -/
def resetDelay (p : Params) : DelayPool where
  mem := []
  lines := List.replicate p.nLines ⟨0, 0⟩

/-- The allocator before the String checkout (step 1): avail[i] = N_LINES − 1 − i, so line 0 is on top. -/
def resetAllocator (p : Params) : Allocator where
  avail := List.range p.nLines
  owner := List.replicate p.nLines .free

/-- The loss filter of family f at reset (step 2). -/
def resetLoss (p : Params) (f : Family) : Loss :=
  lfSetCutoff p (lossKind f)
    { ty := lossTypeFromLive p.table (resetLive p) f, fc := Fp.zero, b0 := Fp.zero, b1 := Fp.zero, b2 := Fp.zero,
      a1 := Fp.zero, a2 := Fp.zero, s1 := Fp.zero, s2 := Fp.zero }
    (liveByClass p.table (resetLive p) .loss f).asF32

/-- The dispersion chain of family f at reset (step 2). -/
def resetDispersion (p : Params) (f : Family) : Dispersion :=
  dispFromLive p.table (resetLive p) f
    { m := 0, gd := Fp.zero, alpha := Fp.zero, bypass := true, vs := Vector.replicate 4 Fp.zero }

/-- A voice of family f at reset (steps 2 and 3), before the String checkout. -/
def resetVoice (p : Params) (f : Family) : Voice where
  note := 0
  ch := 0
  vel := 0
  amp := Fp.zero
  sustaining := false
  peak := Fp.zero
  line0 := none
  line1 := none
  tune := ⟨Fp.zero, Fp.zero⟩
  loss := resetLoss p f
  disp := resetDispersion p f
  noise := 0#32
  decay := Fp.zero
  burstLen := 0
  p := 0
  n := 0
  env := Fp.zero

/-- The String family after its checkout (step 4), with the allocator and ALLOC_FAIL. -/
def resetHolding (p : Params) : Holding :=
  checkout .string
    { alloc := resetAllocator p, bank := Vector.replicate 8 (resetVoice p .string), allocFail := false }

/-- A voice manager with every voice unused (step 4, and 46_polysynth R712): unused = [7, …, 0], 0 on top. -/
def emptyPool : PolySynth where
  used := []
  unused := allVoices
  rr := 0

end Sys2Proof.Machine
end

