-- ==== Sys2Proof/Machine/State.lean ====
section
/-! DEFINITION. The whole state of the block (10_state), the state after reset (70_reset R951, R952), and the reasons a
step can stop. -/

namespace Sys2Proof.Machine

/-- The block raises no trap, exception, interrupt or fault on any path (60_exceptions R900, R909, R912), so there is
no fault: the type is empty. Safe and exact: a refused command is a next state (60_exceptions R905). -/
inductive Fault where
  deriving DecidableEq, Repr

/-- Reasons to give no meaning. -/
inductive Refusal where
  /-- Raised by `exec` for an instruction that has no meaning yet, by its mnemonic; safe. No arm raises it. -/
  | notModelled (mnemonic : String)
  deriving DecidableEq, Repr

/-- Every piece of state that 10_state names, the configuration it is built with (00_scope R8, log 1), and the model's
own ports: the command port's words, the order of moves, and the emitted blocks (log 2, 3, 4). -/
structure State where
  /-- the configuration; no step changes it (10_state R143) -/
  cfg : Cfg
  /-- PHASE (R100) -/
  phase : Phase
  /-- SNAP (R101) -/
  snap : Vector Word 4
  /-- RAW of the assigned slots, in slot order (R110) -/
  raw : List Word
  /-- LIVE of the assigned slots, in slot order (R112) -/
  live : List LiveVal
  /-- DIRTY (R111) -/
  dirty : Vector Word 4
  /-- REQ (R113) -/
  req : Vector NoteReq 128
  /-- INSTR_REQ (R114) -/
  instrReq : InstrReq
  /-- FSA_REQ (R114) -/
  fsaReq : Bool
  /-- STOP_REQ (R115) -/
  stopReq : Bool
  /-- MODE (R115) -/
  mode : Mode
  /-- ACTIVE (R116) -/
  active : Family
  /-- STATUS.ALLOC_FAIL (R120) -/
  allocFail : Bool
  /-- STATUS.CMD_ERR (R120) -/
  cmdErr : Bool
  /-- STATUS.LAST_ERR (R120) -/
  lastErr : ErrCode
  /-- RESULT (R121) -/
  result : Word
  /-- the lines and the delay-sample memory (R130, 20_memory R200) -/
  delay : DelayPool
  /-- avail, top and OWNER (R131) -/
  alloc : Allocator
  /-- voice[f][v] (R132–R139) -/
  voices : PerFamily Bank
  /-- kA[1], kR[1] (R140) -/
  envReed : EnvCoefs
  /-- kA[2], kR[2] (R140) -/
  envBow : EnvCoefs
  /-- ps[f] (R141) -/
  pools : PerFamily PolySynth
  /-- words the HOST has sent and the block has not consumed (log 3) -/
  port : List Word
  /-- which agent moves at each coming step (log 2) -/
  sched : List Agent
  /-- output blocks emitted so far, oldest first (log 4) -/
  emitted : List OutBlock
  deriving DecidableEq, Repr

/-- The reset state of a configuration (70_reset R951, R952), with nothing on the ports. -/
def State.resetOf (cfg : Cfg) : State where
  cfg := cfg
  phase := .idle
  snap := Vector.replicate 4 0#32
  raw := resetRaw cfg.val
  live := resetLive cfg.val
  dirty := Vector.replicate 4 0#32
  req := Vector.replicate 128 .none
  instrReq := ⟨false, .string⟩
  fsaReq := false
  stopReq := false
  mode := .run
  active := .string
  allocFail := (resetHolding cfg.val).allocFail
  cmdErr := false
  lastErr := .ok
  result := 0#32
  delay := resetDelay cfg.val
  alloc := (resetHolding cfg.val).alloc
  voices :=
    { string := (resetHolding cfg.val).bank
      reed := Vector.replicate 8 (resetVoice cfg.val .reed)
      bow := Vector.replicate 8 (resetVoice cfg.val .bow) }
  envReed := envFromLive cfg.val (resetLive cfg.val) .reed
  envBow := envFromLive cfg.val (resetLive cfg.val) .bow
  pools := ⟨emptyPool, emptyPool, emptyPool⟩
  port := []
  sched := []
  emitted := []

/-- The machine right after reset, with the default configuration (00_scope R8). -/
def State.reset : State := State.resetOf Config.default

end Sys2Proof.Machine
end

