-- ==== Sys2Proof/Machine/Ops.lean ====
section
/-! DEFINITION. The named operations over State that the meanings and the ENGINE share: refusing and completing a
command (60_exceptions R905, R906), reading and writing a voice, a voice manager, a dirty bit, the output port. -/

namespace Sys2Proof.Machine

/-- What an instruction's meaning answers. -/
abbrev Result := Host.Outcome State Fault Refusal

namespace State

/-! ### Refusal and completion

The block has no exception to take and none to return from (60_exceptions R900): what stands in their place is the
refusal of a command, one shared operation. -/

/-- reject(code): exactly these three changes (60_exceptions R905). -/
def reject (s : State) (code : ErrCode) : State := { s with result := 0#32, lastErr := code, cmdErr := true }

/-- A command that passed every check writes RESULT and sets LAST_ERR to 0; CMD_ERR is not touched (60_exceptions
R906). -/
def accept (s : State) (r : Word) : State := { s with result := r, lastErr := .ok }

/-! ### Configuration -/

/-- C -/
def cap (s : State) : Nat := s.cfg.val.cap

/-- N_LINES -/
def nLines (s : State) : Nat := s.cfg.val.nLines

/-- FS -/
def fs (s : State) : Nat := s.cfg.val.fs

/-! ### Voices and voice managers -/

/-- voice[f][v] -/
def voice (s : State) (f : Family) (v : Fin 8) : Voice := (s.voices.get f)[v]

def setVoice (s : State) (f : Family) (v : Fin 8) (V : Voice) : State :=
  { s with voices := s.voices.set f ((s.voices.get f).set v V) }

/-- Every voice of a family changed by the same function: `for v in 0..7`. -/
def mapVoices (s : State) (f : Family) (g : Voice → Voice) : State :=
  { s with voices := s.voices.set f (Vector.ofFn fun v => g (s.voice f v)) }

/-- ps[f] -/
def pool (s : State) (f : Family) : PolySynth := s.pools.get f

def setPool (s : State) (f : Family) (P : PolySynth) : State := { s with pools := s.pools.set f P }

/-- kA[f] and kR[f], which exist for Reed and Bow (10_state R140): an ENV row of String has no coefficients to set (log 10). -/
def setEnvCoefs (s : State) (f : Family) (k : EnvCoefs) : State :=
  match f with
  | .string => s
  | .reed => { s with envReed := k }
  | .bow => { s with envBow := k }

/-! ### Dirty bits -/

/-- RAW[slot], read as an i32 -/
def rawAt (s : State) (slot : Nat) : Int := (s.raw.getD slot 0#32).toInt

end State

/-- The dirty word of a slot: s >> 5 (10_state R111). -/
def dirtyGroup (slot : Fin 128) : Fin 4 := ⟨slot.val / 32, by omega⟩

/-- The bit of a slot in its word: s & 31. -/
def dirtyIndex (slot : Fin 128) : Nat := slot.val % 32

/-- The bit of a slot in four words (DIRTY or SNAP). -/
def slotBit (d : Vector Word 4) (slot : Fin 128) : Bool := d[dirtyGroup slot].getLsbD (dirtyIndex slot)

/-- OR of one bit into the slot's word (20_memory R214). -/
def setSlotBit (d : Vector Word 4) (slot : Fin 128) : Vector Word 4 :=
  d.set (dirtyGroup slot) (d[dirtyGroup slot] ||| (1#32 <<< dirtyIndex slot))

/-- Clear the slot's bit (46_polysynth R741, CALLBACK). -/
def clearSlotBit (d : Vector Word 4) (slot : Fin 128) : Vector Word 4 :=
  d.set (dirtyGroup slot) (d[dirtyGroup slot] &&& ~~~(1#32 <<< dirtyIndex slot))

namespace State

/-- emit(main, aux) on the output-block port (46_polysynth R745). -/
def emit (s : State) (b : OutBlock) : State := { s with emitted := s.emitted ++ [b] }

end State
end Sys2Proof.Machine
end

