-- ==== Sys2Proof/Machine/Operands.lean ====
section
/-! DEFINITION. The checks that come before a command's own pseudocode, in the order of 60_exceptions R905 (the encoding
check stands in Decode): the mode gate, then the operand checks of 60_exceptions R903, one definition per operand form.
Each takes what happens when the check passes. -/

namespace Sys2Proof.Machine

open Sys2Proof.Config (ParamRow)

/-- FAM 0, 1, 2; every other value is no family (30_encoding R306, R308). -/
def familyOf : Nat → Option Family
  | 0 => some .string
  | 1 => some .reed
  | 2 => some .bow
  | _ => none

namespace State

/-- The mode gate of UNITs 2–7: ILLEGAL_STATE in RUN mode (60_exceptions R902, 30_encoding R310). -/
def diagnostic (s : State) (pass : State) : State :=
  match s.mode with
  | .run => s.reject .illegalState
  | .stop => pass

/-- LINE: ILLEGAL_ARG unless LINE < N_LINES (41_delay_alloc R400). -/
def onLine (s : State) (line : Nat) (pass : State) : State :=
  if line < s.nLines then pass else s.reject .illegalArg

/-- FAM: ILLEGAL_ARG for 3 (60_exceptions R903). -/
def onFamily (s : State) (fam : Nat) (pass : Family → State) : State :=
  match familyOf fam with
  | some f => pass f
  | none => s.reject .illegalArg

/-- FAM of a noise command: ILLEGAL_ARG unless String (60_exceptions R903). -/
def onStringFamily (s : State) (fam : Nat) (pass : State) : State :=
  if fam = 0 then pass else s.reject .illegalArg

/-- SLOT: ILLEGAL_ARG unless the slot is assigned (47_params R801). -/
def onSlot (s : State) (slot : Fin 128) (pass : ParamRow → State) : State :=
  match s.cfg.val.table[slot.val]? with
  | some row => pass row
  | none => s.reject .illegalArg

end State
end Sys2Proof.Machine
end

