-- ==== Sys2Proof/Machine/Flags.lean ====
section
/-! DEFINITION. The block has no condition flags (60_exceptions R906); what it has is the STATUS word (10_state R120,
48_engine_control R855) and the sticky flags in it. -/

namespace Sys2Proof.Machine

/-- The code in STATUS.LAST_ERR (60_exceptions R901). -/
def ErrCode.code : ErrCode → Nat
  | .ok => 0
  | .illegalCmd => 1
  | .illegalState => 2
  | .illegalArg => 3

/-- String = 0, Reed = 1, Bow = 2 (00_scope R9). -/
def familyCode : Family → Nat
  | .string => 0
  | .reed => 1
  | .bow => 2

/-- RUN = 0, STOP = 1 (10_state R115). -/
def modeCode : Mode → Nat
  | .run => 0
  | .stop => 1

/-- A field's value at its place in the STATUS word. -/
def statusField (n lo : Nat) : Word := BitVec.ofNat 32 n <<< lo

/-- StatusWord() (48_engine_control R855). -/
def statusWord (s : State) : Word :=
  statusField s.allocFail.toNat 0
  ||| statusField s.cmdErr.toNat 1
  ||| statusField s.lastErr.code 4
  ||| statusField (s.pool s.active).used.length 8
  ||| statusField (familyCode s.active) 12
  ||| statusField (modeCode s.mode) 14
  ||| statusField s.stopReq.toNat 15
  ||| statusField s.alloc.avail.length 16
  ||| statusField s.instrReq.valid.toNat 24
  ||| statusField s.fsaReq.toNat 25
  ||| statusField (if s.phase = .idle then 0 else 1) 26

/-- The write-1-to-clear of CLEAR_STATUS: mask bit 0 clears ALLOC_FAIL, mask bit 1 clears CMD_ERR
(48_engine_control R852). -/
def clearSticky (s : State) (mask : Word) : State :=
  { s with
    allocFail := s.allocFail && !mask.getLsbD 0
    cmdErr := s.cmdErr && !mask.getLsbD 1 }

end Sys2Proof.Machine
end

