-- ==== Sys2Proof/Machine/DelayControl.lean ====
section
/-! DEFINITION. UNIT 2 (DELAY) and UNIT 3 (ALLOC), diagnostic commands: 41_delay_alloc R400–R405, R420, R421. A line may
be named whatever its OWNER (R400). -/

namespace Sys2Proof.Machine

/-- NULL_LINE (00_scope R17). -/
def nullLine : Word := 0xFFFFFFFF#32

/-- DL_PUSH (R401). -/
def execDlPush (l : Nat) (x : F32) (s : State) : Result :=
  .next (s.diagnostic (s.onLine l ({ s with delay := s.delay.push s.cap l x }.accept 0#32)))

/-- DL_GETLAST (R402). -/
def execDlGetLast (l : Nat) (s : State) : Result :=
  .next (s.diagnostic (s.onLine l (s.accept (s.delay.getLast s.cap l))))

/-- DL_SETDELAY (R403): RESULT is the clamped length. -/
def execDlSetDelay (l : Nat) (n : Word) (s : State) : Result :=
  let d := s.delay.setDelay s.cap l n.toInt
  .next (s.diagnostic (s.onLine l ({ s with delay := d }.accept (BitVec.ofNat 32 (d.line l).len))))

/-- DL_PROCESS (R404). -/
def execDlProcess (l : Nat) (x : F32) (s : State) : Result :=
  let r := s.delay.process s.cap l x
  .next (s.diagnostic (s.onLine l ({ s with delay := r.1 }.accept r.2)))

/-- DL_CLEAR (R405). -/
def execDlClear (l : Nat) (s : State) : Result :=
  .next (s.diagnostic (s.onLine l ({ s with delay := s.delay.clear s.cap l }.accept 0#32)))

/-- ALLOC_GET (R420): an empty pool answers NULL_LINE and is no error. -/
def execAllocGet (s : State) : Result :=
  let r := s.alloc.pop .host
  .next (s.diagnostic ({ s with alloc := r.2 }.accept (match r.1 with
    | some l => BitVec.ofNat 32 l
    | none => nullLine)))

/-- ALLOC_RELEASE (R421): ILLEGAL_ARG unless the HOST owns the line. -/
def execAllocRelease (l : Nat) (s : State) : Result :=
  .next (s.diagnostic (s.onLine l
    (if s.alloc.ownerOf l = .host then { s with alloc := s.alloc.pushAvail l }.accept 0#32
     else s.reject .illegalArg)))

end Sys2Proof.Machine
end

