-- ==== Sys2Proof/Machine/EngineControl.lean ====
section
/-! DEFINITION. UNIT 0, engine control and status: 48_engine_control R850–R854. Control commands are accepted in either
MODE (30_encoding R310). -/

namespace Sys2Proof.Machine

/-- NOP (R850). -/
def execNop (s : State) : Result := .next (s.accept 0#32)

/-- READ_STATUS (R851): the word shows the LAST_ERR that the previous command left. -/
def execReadStatus (s : State) : Result := .next (s.accept (statusWord s))

/-- CLEAR_STATUS (R852): RESULT is the word after the clears. -/
def execClearStatus (mask : Word) (s : State) : Result :=
  let t := { clearSticky s mask with lastErr := .ok }
  .next (t.accept (statusWord t))

/-- ENGINE_STOP (R853): takes effect at the next BEGIN. -/
def execEngineStop (s : State) : Result := .next ({ s with stopReq := true }.accept 0#32)

/-- ENGINE_RUN (R854). -/
def execEngineRun (s : State) : Result := .next ({ s with mode := .run, stopReq := false }.accept 0#32)

end Sys2Proof.Machine
end

