-- ==== Sys2Proof/Machine/FilterControl.lean ====
section
/-! DEFINITION. UNITs 4 (TUNE), 5 (LOSS), 6 (DISP) and 7 (NOISE), diagnostic commands on the filters of one voice:
42_tuning R451, R452; 43_loss R510–R513; 44_dispersion R560–R563; 45_voices R601, R602. -/

namespace Sys2Proof.Machine

/-! ### What a V command does to its voice -/

/-- Replace voice[f][v].tune. -/
def setTune (s : State) (f : Family) (v : Fin 8) (t : Tuning) : State :=
  s.setVoice f v { s.voice f v with tune := t }

/-- Replace voice[f][v].loss. -/
def setLoss (s : State) (f : Family) (v : Fin 8) (F : Loss) : State :=
  s.setVoice f v { s.voice f v with loss := F }

/-- Replace voice[f][v].disp. -/
def setDisp (s : State) (f : Family) (v : Fin 8) (D : Dispersion) : State :=
  s.setVoice f v { s.voice f v with disp := D }

/-- Replace voice[f][v].noise. -/
def setNoise (s : State) (f : Family) (v : Fin 8) (n : Word) : State :=
  s.setVoice f v { s.voice f v with noise := n }

/-! ### UNIT 4 -/

/-- TF_SETDELAY (42_tuning R451). -/
def execTfSetDelay (fam : Nat) (v : Fin 8) (d : F32) (s : State) : Result :=
  .next (s.diagnostic (s.onFamily fam fun f =>
    let r := tfSplit (s.voice f v).tune d
    (setTune s f v r.1).accept (BitVec.ofInt 32 r.2)))

/-- TF_PROCESS (42_tuning R452). -/
def execTfProcess (fam : Nat) (v : Fin 8) (x : F32) (s : State) : Result :=
  .next (s.diagnostic (s.onFamily fam fun f =>
    let r := tfStep (s.voice f v).tune x
    (setTune s f v r.1).accept r.2))

/-! ### UNIT 5 -/

/-- LOSS_SETCUTOFF (43_loss R510): RESULT is the clamped cutoff. -/
def execLossSetCutoff (fam : Nat) (v : Fin 8) (x : F32) (s : State) : Result :=
  .next (s.diagnostic (s.onFamily fam fun f =>
    let F := lfSetCutoff s.cfg.val (lossKind f) (s.voice f v).loss x
    (setLoss s f v F).accept F.fc))

/-- LOSS_SETTYPE (43_loss R511): an OnePoleFilter has no type. -/
def execLossSetType (fam : Nat) (v : Fin 8) (ty : LossType) (s : State) : Result :=
  .next (s.diagnostic (s.onFamily fam fun f =>
    if f = .reed then s.reject .illegalArg
    else (setLoss s f v (lfSetType s.cfg.val (s.voice f v).loss ty)).accept 0#32))

/-- LOSS_PROCESS (43_loss R512). -/
def execLossProcess (fam : Nat) (v : Fin 8) (x : F32) (s : State) : Result :=
  .next (s.diagnostic (s.onFamily fam fun f =>
    let r := lfStep (s.voice f v).loss x
    (setLoss s f v r.1).accept r.2))

/-- LOSS_PHASEDELAY (43_loss R513). -/
def execLossPhaseDelay (fam : Nat) (v : Fin 8) (freq : F32) (s : State) : Result :=
  .next (s.diagnostic (s.onFamily fam fun f => s.accept (lfPhaseDelay s.cfg.val (s.voice f v).loss freq)))

/-! ### UNIT 6 -/

/-- DISP_SETGD (44_dispersion R560): RESULT is alpha. -/
def execDispSetGD (fam : Nat) (v : Fin 8) (g : F32) (s : State) : Result :=
  .next (s.diagnostic (s.onFamily fam fun f =>
    let D := dpSetGD (s.voice f v).disp g
    (setDisp s f v D).accept D.alpha))

/-- DISP_SETSTAGES (44_dispersion R561): STAGES 5..7 are refused with ILLEGAL_ARG. -/
def execDispSetStages (fam : Nat) (v : Fin 8) (stages : Nat) (s : State) : Result :=
  .next (s.diagnostic (s.onFamily fam fun f =>
    if 4 < stages then s.reject .illegalArg
    else
      let D := dpSetStages (s.voice f v).disp stages
      (setDisp s f v D).accept D.alpha))

/-- DISP_PROCESS (44_dispersion R562). -/
def execDispProcess (fam : Nat) (v : Fin 8) (x : F32) (s : State) : Result :=
  .next (s.diagnostic (s.onFamily fam fun f =>
    let r := dpStep (s.voice f v).disp x
    (setDisp s f v r.1).accept r.2))

/-- DISP_PHASEDELAY (44_dispersion R563). -/
def execDispPhaseDelay (fam : Nat) (v : Fin 8) (freq : F32) (s : State) : Result :=
  .next (s.diagnostic (s.onFamily fam fun f => s.accept (dpPhaseDelay s.cfg.val (s.voice f v).disp freq)))

/-! ### UNIT 7 -/

/-- NOISE_SEED (45_voices R601): String only. -/
def execNoiseSeed (fam : Nat) (v : Fin 8) (seed : Word) (s : State) : Result :=
  .next (s.diagnostic (s.onStringFamily fam ((setNoise s .string v seed).accept 0#32)))

/-- NOISE_NEXT (45_voices R602): String only. -/
def execNoiseNext (fam : Nat) (v : Fin 8) (s : State) : Result :=
  let n := nzAdvance (s.voice .string v).noise
  .next (s.diagnostic (s.onStringFamily fam ((setNoise s .string v n).accept (nzOutput n))))

end Sys2Proof.Machine
end

