-- ==== Sys2Proof/Machine/NoteControl.lean ====
section
/-! DEFINITION. UNIT 0, note and instrument requests: 46_polysynth R700–R703. Each writes a request register, which the
ENGINE consumes at a later block's APPLY. -/

namespace Sys2Proof.Machine

/-- NOTE_ON (R700): the last write before APPLY wins. -/
def execNoteOn (ch : Fin 16) (note vel : Fin 128) (s : State) : Result :=
  .next ({ s with req := s.req.set note (.on ch vel) }.accept 0#32)

/-- NOTE_OFF (R701). -/
def execNoteOff (note : Fin 128) (s : State) : Result :=
  .next ({ s with req := s.req.set note .off }.accept 0#32)

/-- SET_INSTRUMENT (R702): FAM = 3 is refused with ILLEGAL_ARG. -/
def execSetInstrument (fam : Nat) (s : State) : Result :=
  .next (s.onFamily fam fun f => { s with instrReq := ⟨true, f⟩ }.accept 0#32)

/-- FORCE_STOP_ALL (R703). -/
def execForceStopAll (s : State) : Result := .next ({ s with fsaReq := true }.accept 0#32)

end Sys2Proof.Machine
end

