-- ==== Sys2Proof/Machine/ParamControl.lean ====
section
/-! DEFINITION. UNIT 1, the parameter registers: 47_params R801–R805, R810. -/

namespace Sys2Proof.Machine

open Sys2Proof.Config (ParamRow)

/-- Mutate(s, new) (47_params R810), with new an unbounded integer. -/
def mutate (s : State) (slot : Fin 128) (row : ParamRow) (new : Int) : State :=
  let v := Fp.clampInt new row.minVal row.maxVal
  { s with
    raw := s.raw.set slot (BitVec.ofInt 32 v)
    dirty := if v = s.rawAt slot then s.dirty else setSlotBit s.dirty slot }.accept (BitVec.ofInt 32 v)

/-- PARAM_SET (R802). -/
def execParamSet (slot : Fin 128) (raw : Word) (s : State) : Result :=
  .next (s.onSlot slot fun row => mutate s slot row raw.toInt)

/-- PARAM_ADD (R803): the product is not reduced before the clamp. -/
def execParamAdd (slot : Fin 128) (alt : Bool) (delta : Word) (s : State) : Result :=
  .next (s.onSlot slot fun row =>
    mutate s slot row (s.rawAt slot + delta.toInt * row.step * (if alt then row.altMul else 1)))

/-- PARAM_RESET (R804). -/
def execParamReset (slot : Fin 128) (s : State) : Result :=
  .next (s.onSlot slot fun row => mutate s slot row row.defaultVal)

/-- PARAM_GET (R805): RAW, not LIVE. -/
def execParamGet (slot : Fin 128) (s : State) : Result :=
  .next (s.onSlot slot fun _ => s.accept (s.raw.getD slot 0#32))

end Sys2Proof.Machine
end

