-- ==== Sys2Proof/Machine/Dispatch.lean ====
section
/-! DEFINITION. exec: one arm per command, each one call of its meaning. -/

namespace Sys2Proof.Machine

def exec (i : Instr) (s : State) : Host.Outcome State Fault Refusal :=
  match i with
  | .nop => Sys2Proof.Machine.execNop s
  | .noteOn ch note vel => Sys2Proof.Machine.execNoteOn ch note vel s
  | .noteOff note => Sys2Proof.Machine.execNoteOff note s
  | .setInstrument fam => Sys2Proof.Machine.execSetInstrument fam s
  | .forceStopAll => Sys2Proof.Machine.execForceStopAll s
  | .readStatus => Sys2Proof.Machine.execReadStatus s
  | .clearStatus mask => Sys2Proof.Machine.execClearStatus mask s
  | .engineStop => Sys2Proof.Machine.execEngineStop s
  | .engineRun => Sys2Proof.Machine.execEngineRun s
  | .paramSet slot raw => Sys2Proof.Machine.execParamSet slot raw s
  | .paramAdd slot alt delta => Sys2Proof.Machine.execParamAdd slot alt delta s
  | .paramReset slot => Sys2Proof.Machine.execParamReset slot s
  | .paramGet slot => Sys2Proof.Machine.execParamGet slot s
  | .dlPush line x => Sys2Proof.Machine.execDlPush line x s
  | .dlGetLast line => Sys2Proof.Machine.execDlGetLast line s
  | .dlProcess line x => Sys2Proof.Machine.execDlProcess line x s
  | .dlSetDelay line n => Sys2Proof.Machine.execDlSetDelay line n s
  | .dlClear line => Sys2Proof.Machine.execDlClear line s
  | .allocGet => Sys2Proof.Machine.execAllocGet s
  | .allocRelease line => Sys2Proof.Machine.execAllocRelease line s
  | .tfSetDelay fam voice d => Sys2Proof.Machine.execTfSetDelay fam voice d s
  | .tfProcess fam voice x => Sys2Proof.Machine.execTfProcess fam voice x s
  | .lossSetCutoff fam voice x => Sys2Proof.Machine.execLossSetCutoff fam voice x s
  | .lossSetType fam voice ty => Sys2Proof.Machine.execLossSetType fam voice ty s
  | .lossProcess fam voice x => Sys2Proof.Machine.execLossProcess fam voice x s
  | .lossPhaseDelay fam voice x => Sys2Proof.Machine.execLossPhaseDelay fam voice x s
  | .dispSetGD fam voice g => Sys2Proof.Machine.execDispSetGD fam voice g s
  | .dispSetStages fam voice stages => Sys2Proof.Machine.execDispSetStages fam voice stages s
  | .dispProcess fam voice x => Sys2Proof.Machine.execDispProcess fam voice x s
  | .dispPhaseDelay fam voice x => Sys2Proof.Machine.execDispPhaseDelay fam voice x s
  | .noiseSeed fam voice seed => Sys2Proof.Machine.execNoiseSeed fam voice seed s
  | .noiseNext fam voice => Sys2Proof.Machine.execNoiseNext fam voice s

end Sys2Proof.Machine
end

