-- ==== Sys2Proof/Machine/Voices.lean ====
section
/-! DEFINITION. The three physical-model voices as the ENGINE runs them: NoteOn (45_voices R611–R614), the per-sample
steps (R620–R623), NoteOff and queries (R624, R625) and the block render of one voice (R626). They work on one voice and
the delay pool, and read the configuration, the live values and the envelope coefficients. -/

namespace Sys2Proof.Machine

open Sys2Proof.Fp
open Sys2Proof.Config (Params ParamName)

/-- What a voice reads and never writes. -/
structure VoiceEnv where
  cfg : Params
  live : List LiveVal
  envReed : EnvCoefs
  envBow : EnvCoefs
  deriving DecidableEq, Repr

/-- LIVE[name], an f32 (10_state R112). -/
def liveF (E : VoiceEnv) (n : ParamName) : F32 := (liveByName E.cfg.table E.live n).asF32

/-- LIVE[name], an integer. -/
def liveI (E : VoiceEnv) (n : ParamName) : Int := (liveByName E.cfg.table E.live n).asInt

/-- THRESH[f] (00_scope R8). -/
def threshold (p : Params) : Family → F32
  | .string => p.threshString
  | .reed => p.threshReed
  | .bow => p.threshBow

/-- ok(f, v): no line of the voice is NONE. -/
def usable (f : Family) (V : Voice) : Bool := (lineSlots f).all fun k => (V.line k).isSome

/-! ### NoteOn -/

/-- The fields that NoteOn sets and the state that it resets (45_voices R611). -/
def noteOnReset (f : Family) (ch : Fin 16) (note vel : Fin 128) (V : Voice) : Voice :=
  let V := { V with
    note := note
    ch := ch
    vel := vel
    sustaining := true
    peak := zero
    amp := div (ofInt (vel.val : Int)) f127
    tune := { V.tune with v := zero }
    loss := { V.loss with s1 := zero, s2 := zero }
    disp := { V.disp with vs := Vector.replicate 4 zero } }
  match f with
  | .string => { V with n := 0 }
  | .reed => { V with env := zero }
  | .bow => { V with env := zero }

/-- Clear every line the voice holds (45_voices R611, 92 D21). DEDUCED (log 19): the pseudocode is taken for a Bow voice with
one line and one NONE too, so the line it holds is cleared, where R611's bullet and 92 D9 say that a voice with a NONE
line touches no line. -/
def clearLines (cap : Nat) (f : Family) (V : Voice) (d : DelayPool) : DelayPool :=
  (lineSlots f).foldl (fun d k => match V.line k with
    | some l => d.clear cap l
    | none => d) d

/-- freq = 440.0 · POW2_32(f32(note − 69)/12.0) (45_voices R611). -/
def noteFreq (p : Params) (note : Fin 128) : F32 :=
  mul f440 (pow2 p.fns (div (ofInt ((note.val : Int) - 69)) twelve))

/-- loop = f32(FS)/freq (45_voices R611). -/
def loopLength (p : Params) (note : Fin 128) : F32 := div (fsF32 p) (noteFreq p note)

/-- rem = loop − pd, pd the phase delays of the loss filter and the dispersion chain (45_voices R611). -/
def loopRemainder (p : Params) (V : Voice) (note : Fin 128) : F32 :=
  sub (loopLength p note)
    (add (lfPhaseDelay p V.loss (noteFreq p note)) (dpPhaseDelay p V.disp (noteFreq p note)))

/-- The decay gain of a pluck (45_voices R612). -/
def pluckDecay (p : Params) (loop ms : F32) : F32 :=
  if lt zero ms then
    let t := div (mul (fsF32 p) ms) thousand
    Fp.min (pow10 p.fns (neg (div loop t))) decayMax
  else zero

/-- A line delay is never set below 1 (45_voices R611, 92 D22). -/
def atLeastOne (i : Int) : Int := if i < 1 then 1 else i

/-- PluckString NoteOn tail (45_voices R612). -/
def stringNoteOnTail (E : VoiceEnv) (note : Fin 128) (V : Voice) (d : DelayPool) : Voice × DelayPool :=
  let r := tfSplit V.tune (loopRemainder E.cfg V note)
  let V := { V with
    tune := r.1
    decay := pluckDecay E.cfg (loopLength E.cfg note) (liveF E .strDecayMs)
    noise := BitVec.ofInt 32 (liveI E .strNoiseSeed) }
  match V.line0 with
  | some l =>
    let d := d.setDelay E.cfg.cap l (atLeastOne r.2)
    let b := (d.line l).len
    ({ V with
       burstLen := b
       p := (clampInt (toInt (floor (mul (liveF E .strPluckPos) (ofInt (b : Int))))) 0 b).toNat }, d)
  | none => ({ V with burstLen := 0, p := 0 }, d)

/-- Reed NoteOn tail (45_voices R613). -/
def reedNoteOnTail (E : VoiceEnv) (note : Fin 128) (V : Voice) (d : DelayPool) : Voice × DelayPool :=
  let r := tfSplit V.tune (loopRemainder E.cfg V note)
  ({ V with tune := r.1 },
   match V.line0 with
   | some l => d.setDelay E.cfg.cap l (atLeastOne r.2)
   | none => d)

/-- nutL of the Bowed NoteOn tail (45_voices R614). -/
def nutLength (E : VoiceEnv) (rem : F32) : Int :=
  let nf := mul (liveF E .bowPosition) rem
  if isNaN nf then 1 else atLeastOne (toInt (floor nf))

/-- Bowed NoteOn tail (45_voices R614): line 0 is the nut segment, line 1 the bridge segment. -/
def bowNoteOnTail (E : VoiceEnv) (note : Fin 128) (V : Voice) (d : DelayPool) : Voice × DelayPool :=
  let rem := loopRemainder E.cfg V note
  let nutL := nutLength E rem
  let r := tfSplit V.tune (sub rem (ofInt nutL))
  ({ V with tune := r.1 },
   match V.line0, V.line1 with
   | some nut, some brg => (d.setDelay E.cfg.cap nut nutL).setDelay E.cfg.cap brg (atLeastOne r.2)
   | _, _ => d)

/-- VoiceNoteOn (45_voices R611) on one voice and the delay pool; of a voice with a missing line see `clearLines` (log 19). -/
def voiceNoteOn (E : VoiceEnv) (f : Family) (ch : Fin 16) (note vel : Fin 128) (V : Voice) (d : DelayPool) :
    Voice × DelayPool :=
  let W := noteOnReset f ch note vel V
  let d := clearLines E.cfg.cap f W d
  match f with
  | .string => stringNoteOnTail E note W d
  | .reed => reedNoteOnTail E note W d
  | .bow => bowNoteOnTail E note W d

/-! ### Per-sample steps -/

/-- What one sample step gives: the output, the voice and the delay pool after it. -/
structure StepOut where
  out : F32
  voice : Voice
  delay : DelayPool
  deriving DecidableEq, Repr

/-- The loop's filters in order: tuning, loss, dispersion (92 D15). -/
def loopFilter (V : Voice) (y : F32) : Voice × F32 :=
  let t := tfStep V.tune y
  let F := lfStep V.loss t.2
  let D := dpStep V.disp F.2
  ({ V with tune := t.1, loss := F.1, disp := D.1 }, D.2)

/-- The pluck excitation of one sample (45_voices R620). -/
def excitation (E : VoiceEnv) (V : Voice) : Voice × F32 :=
  if V.n < V.burstLen then
    let click := if V.n < V.p then one else minusOne
    let s := nzAdvance V.noise
    let c := liveF E .strColor
    ({ V with noise := s, n := V.n + 1 }, mul V.amp (add (mul (sub one c) click) (mul c (nzOutput s))))
  else (V, zero)

/-- StringStep (45_voices R620); an unusable voice changes nothing (R623). -/
def stringStep (E : VoiceEnv) (V : Voice) (d : DelayPool) : StepOut :=
  match V.line0 with
  | none => ⟨zero, V, d⟩
  | some l =>
    let y := d.getLast E.cfg.cap l
    let r := loopFilter V y
    let x := excitation E r.1
    ⟨y, x.1, d.push E.cfg.cap l (add (mul V.decay r.2) x.2)⟩

/-- The envelope's target: a live value scaled by amp while sustaining, else 0 (45_voices R621, R622). -/
def envTarget (V : Voice) (level : F32) : F32 := if V.sustaining then mul level V.amp else zero

/-- The reed's reflection coefficient (45_voices R621). -/
def reedReflection (E : VoiceEnv) (delta : F32) : F32 :=
  let off := if lt delta zero then liveF E .reedInhaleOffset else liveF E .reedActiveOffset
  Fp.clamp (add off (mul (liveF E .reedSlope) (tanh32 E.cfg.fns delta))) minusOne one

/-- ReedStep (45_voices R621). -/
def reedStep (E : VoiceEnv) (V : Voice) (d : DelayPool) : StepOut :=
  match V.line0 with
  | none => ⟨zero, V, d⟩
  | some l =>
    let pm := envStep V.env (envTarget V (liveF E .reedPressure)) E.envReed
    let y := d.getLast E.cfg.cap l
    let r := loopFilter { V with env := pm } y
    let refl := neg (mul (liveF E .reedLoopGain) r.2)
    let delta := sub pm refl
    ⟨y, r.1, d.push E.cfg.cap l (sub pm (mul (reedReflection E delta) delta))⟩

/-- The bow's friction reflection (45_voices R622). -/
def bowReflection (E : VoiceEnv) (dv : F32) : F32 :=
  let s := add (abs (add (mul dv (liveF E .bowSlope)) (liveF E .bowOffset))) threeQuarters
  let q := div one (mul (mul s s) (mul s s))
  Fp.clamp q (liveF E .bowReflMin) (liveF E .bowReflMax)

/-- BowStep (45_voices R622). -/
def bowStep (E : VoiceEnv) (V : Voice) (d : DelayPool) : StepOut :=
  match V.line0, V.line1 with
  | some nut, some brg =>
    let vb := envStep V.env (envTarget V (liveF E .bowSpeed)) E.envBow
    let yb := d.getLast E.cfg.cap brg
    let yn := d.getLast E.cfg.cap nut
    let r := loopFilter { V with env := vb } yb
    let bref := neg (mul (liveF E .bowLoopGain) r.2)
    let nref := neg yn
    let dv := sub vb (add bref nref)
    let nv := mul dv (bowReflection E dv)
    ⟨yb, r.1, (d.push E.cfg.cap nut (add bref nv)).push E.cfg.cap brg (add nref nv)⟩
  | _, _ => ⟨zero, V, d⟩

/-- ProcessSingle of a family (45_voices R610). -/
def voiceStep (E : VoiceEnv) (f : Family) (V : Voice) (d : DelayPool) : StepOut :=
  match f with
  | .string => stringStep E V d
  | .reed => reedStep E V d
  | .bow => bowStep E V d

/-! ### NoteOff, queries and block render -/

/-- VoiceNoteOff (45_voices R624). -/
def voiceNoteOff (V : Voice) : Voice := { V with sustaining := false }

/-- IsPlaying(v, note) (45_voices R625). -/
def isPlaying (V : Voice) (note : Fin 128) : Bool := V.note == note

/-- CanPlay(v, note) (45_voices R625): true for every voice and note; no rule's outcome depends on it. -/
def canPlay (_ : Voice) (_ : Fin 128) : Bool := true

/-- The running peak (45_voices R626): a NaN does not raise it. -/
def raisePeak (V : Voice) (y : F32) : Voice := { V with peak := if lt V.peak (abs y) then abs y else V.peak }

/-- n samples of one voice: the outputs in order, the voice and the delay pool after them. -/
structure BlockOut where
  samples : List F32
  voice : Voice
  delay : DelayPool
  deriving DecidableEq, Repr

/-- The sample loop of VoiceBlock (45_voices R626). -/
def voiceSamples (E : VoiceEnv) (f : Family) : Nat → Voice → DelayPool → BlockOut
  | 0, V, d => ⟨[], V, d⟩
  | n + 1, V, d =>
    let r := voiceStep E f V d
    let rest := voiceSamples E f n (raisePeak r.voice r.out) r.delay
    ⟨r.out :: rest.samples, rest.voice, rest.delay⟩

/-- VoiceBlock (45_voices R626), less the mixing into main: the peak starts at 0. -/
def voiceBlock (E : VoiceEnv) (f : Family) (V : Voice) (d : DelayPool) : BlockOut :=
  voiceSamples E f E.cfg.block { V with peak := zero } d

/-- Whether a voice reports silent after its block (45_voices R626): a sustaining voice never does. -/
def reportsSilent (p : Params) (f : Family) (V : Voice) : Bool := !V.sustaining && lt V.peak (threshold p f)

/-- main[n] after a voice's samples: overwritten by the first voice (Process), added to by the others (AddTo). -/
def mix (first : Bool) (main ys : List F32) : List F32 := if first then ys else List.zipWith add main ys

end Sys2Proof.Machine
end

