-- ==== Sys2Proof/Machine/PolyManager.lean ====
section
/-! DEFINITION. The voice manager's operations, which only the ENGINE runs: 46_polysynth R710–R713, R720. -/

namespace Sys2Proof.Machine

namespace State

/-- What the voices read. -/
def voiceEnv (s : State) : VoiceEnv := ⟨s.cfg.val, s.live, s.envReed, s.envBow⟩

/-- VoiceNoteOn(f, v, …) on the state (45_voices R611). -/
def startVoice (s : State) (f : Family) (v : Fin 8) (ch : Fin 16) (note vel : Fin 128) : State :=
  let r := voiceNoteOn s.voiceEnv f ch note vel (s.voice f v) s.delay
  { s.setVoice f v r.1 with delay := r.2 }

/-- PS_NoteOn(f, ch, note, vel) (46_polysynth R710): pop, or steal the voice at rr. -/
def psNoteOn (s : State) (f : Family) (ch : Fin 16) (note vel : Fin 128) : State :=
  let P := s.pool f
  match P.unused with
  | v :: rest => (s.setPool f { P with unused := rest, used := P.used ++ [v] }).startVoice f v ch note vel
  | [] => (s.setPool f { P with rr := P.rr + 1 }).startVoice f P.rr ch note vel

/-- One voice of PS_NoteOff. -/
def psNoteOffOne (f : Family) (note : Fin 128) (s : State) (v : Fin 8) : State :=
  if isPlaying (s.voice f v) note then s.setVoice f v (voiceNoteOff (s.voice f v)) else s

/-- PS_NoteOff(f, note) (46_polysynth R711): every used voice that plays the note, on any channel. -/
def psNoteOff (s : State) (f : Family) (note : Fin 128) : State :=
  (s.pool f).used.foldl (psNoteOffOne f note) s

/-- PS_ForceStopAll(f) (46_polysynth R712). -/
def psForceStopAll (s : State) (f : Family) : State := (s.setPool f emptyPool).mapVoices f voiceNoteOff

/-- Release(f) on the state (41_delay_alloc R423). -/
def releaseFamily (s : State) (f : Family) : State :=
  let h := release f ⟨s.alloc, s.voices.get f, s.allocFail⟩
  { s with alloc := h.alloc, voices := s.voices.set f h.bank, allocFail := h.allocFail }

/-- Checkout(f) on the state (41_delay_alloc R422). -/
def checkoutFamily (s : State) (f : Family) : State :=
  let h := checkout f ⟨s.alloc, s.voices.get f, s.allocFail⟩
  { s with alloc := h.alloc, voices := s.voices.set f h.bank, allocFail := h.allocFail }

/-- Switch(r) (46_polysynth R713). The lines come in the stack's order, permuted or not (log 22). -/
def switchTo (s : State) (r : Family) : State :=
  if r = s.active then s
  else { ((s.psForceStopAll s.active).releaseFamily s.active).checkoutFamily r with active := r }

end State

/-- The removal loop (46_polysynth R720) from position j: `silent` holds the voices that reported silent. Each round
tests one of the elements that were in used, so `fuel` = usedCount rounds finish it. -/
def removeFrom (silent : List (Fin 8)) : (fuel : Nat) → (j : Nat) → PolySynth → PolySynth
  | 0, _, P => P
  | fuel + 1, j, P =>
    match P.used[j]? with
    | none => P
    | some v =>
      if silent.contains v then
        removeFrom silent fuel j
          { P with used := (P.used.set j (P.used.getLastD v)).dropLast, unused := v :: P.unused }
      else removeFrom silent fuel (j + 1) P

/-- Remove(f) (46_polysynth R720). -/
def removeSilent (silent : List (Fin 8)) (P : PolySynth) : PolySynth := removeFrom silent P.used.length 0 P

end Sys2Proof.Machine
end

