-- ==== Sys2Proof/Machine/Engine.lean ====
section
/-! DEFINITION. The ENGINE's steps: BEGIN (46_polysynth R740), SWAP, CALLBACK, APPLY and RENDER (R741–R743), the callbacks
(47_params R820, R821), and the reset input (70_reset R950). -/

namespace Sys2Proof.Machine

open Sys2Proof.Config (ParamRow)

/-- B samples of +0.0. -/
def silence (n : Nat) : List F32 := List.replicate n Fp.zero

/-- The slots 0 .. 127 in order. -/
def allSlots : List (Fin 128) := List.ofFn id

/-- next(s) (46_polysynth R741): CALLBACK(t) for the least t ≥ from whose SNAP bit is set, or APPLY. -/
def nextPhase (snap : Vector Word 4) (start : Nat) : Phase :=
  match allSlots.find? (fun t => decide (start ≤ t.val) && slotBit snap t) with
  | some t => .callback t
  | none => .apply

namespace State

/-- BEGIN (46_polysynth R740): the block tick at PHASE = IDLE. -/
def begin (s : State) : State :=
  let s := if s.stopReq then { s with mode := .stop, stopReq := false } else s
  match s.mode with
  | .stop => s.emit ⟨silence s.cfg.val.block, silence s.cfg.val.block⟩
  | .run => { s with phase := .swap 0 }

/-- SWAP(g) (46_polysynth R741, 47_params R820). -/
def swapWord (s : State) (g : Fin 4) : State :=
  let snap := s.snap.set g s.dirty[g]
  { s with
    snap := snap
    dirty := s.dirty.set g 0#32
    phase := if h : g.val < 3 then .swap ⟨g.val + 1, by omega⟩ else nextPhase snap 0 }

/-- The effect of a callback class on its family, once LIVE[s] is written (47_params R821). -/
def callbackEffect (s : State) (row : ParamRow) (lv : LiveVal) : State :=
  match row.cb with
  | .live => s
  | .loss => s.mapVoices row.fam fun V => { V with loss := lfSetCutoff s.cfg.val (lossKind row.fam) V.loss lv.asF32 }
  | .lossType => s.mapVoices row.fam fun V => { V with loss := lfSetType s.cfg.val V.loss (lossTypeOf lv.asInt) }
  | .disp _ =>
    s.mapVoices row.fam fun V => { V with disp := dispFromLive s.cfg.val.table s.live row.fam V.disp }
  | .env _ => s.setEnvCoefs row.fam (envFromLive s.cfg.val s.live row.fam)

/-- Callback(s) (47_params R821): it reads RAW now. -/
def runCallback (s : State) (slot : Fin 128) : State :=
  match s.cfg.val.table[slot.val]? with
  | none => s
  | some row =>
    let lv := liveOf row (s.rawAt slot)
    { s with live := s.live.set slot lv }.callbackEffect row lv

/-- CALLBACK(s) (46_polysynth R741). -/
def callbackStep (s : State) (slot : Fin 128) : State :=
  let snap := clearSlotBit s.snap slot
  { { s with snap := snap }.runCallback slot with phase := nextPhase snap (slot.val + 1) }

/-- The note request of one note (46_polysynth R742). -/
def applyNote (Q : Vector NoteReq 128) (s : State) (note : Fin 128) : State :=
  match Q[note] with
  | .on ch vel => s.psNoteOn s.active ch note vel
  | .off => s.psNoteOff s.active note
  | .none => s

/-- The instrument request (46_polysynth R742). -/
def applyInstrument (s : State) : State :=
  if s.instrReq.valid then { s with instrReq := { s.instrReq with valid := false } }.switchTo s.instrReq.fam else s

/-- The force-stop request (46_polysynth R742). -/
def applyForceStop (s : State) : State := if s.fsaReq then { s with fsaReq := false }.psForceStopAll s.active else s

/-- APPLY (46_polysynth R742): instrument, then force-stop, then the notes in ascending order. -/
def applyStep (s : State) : State :=
  let s := s.applyInstrument.applyForceStop
  { allSlots.foldl (applyNote s.req) { s with req := Vector.replicate 128 .none } with phase := .render }

end State

/-- What RENDER carries from voice to voice: the state, main so far, and the voices that reported silent. -/
structure Rendering where
  state : State
  first : Bool
  main : List F32
  silent : List (Fin 8)
  deriving DecidableEq, Repr

/-- One used voice of RENDER (46_polysynth R743, 45_voices R626). -/
def renderVoice (f : Family) (R : Rendering) (v : Fin 8) : Rendering :=
  let s := R.state
  let b := voiceBlock s.voiceEnv f (s.voice f v) s.delay
  { state := { s.setVoice f v b.voice with delay := b.delay }
    first := false
    main := mix R.first R.main b.samples
    silent := if reportsSilent s.cfg.val f b.voice then v :: R.silent else R.silent }

namespace State

/-- The used voices of family f rendered in order; with none, main is silence (46_polysynth R743). -/
def renderVoices (s : State) (f : Family) : Rendering :=
  (s.pool f).used.foldl (renderVoice f) ⟨s, true, silence s.cfg.val.block, []⟩

/-- RENDER (46_polysynth R743). -/
def renderStep (s : State) : State :=
  let f := s.active
  let R := s.renderVoices f
  let t := R.state.setPool f (removeSilent R.silent (R.state.pool f))
  { t.emit ⟨R.main, silence s.cfg.val.block⟩ with phase := .idle }

/-- The ENGINE's next step: the block tick when idle, else the step of the phase (46_polysynth R740, R741). -/
def engineStep (s : State) : State :=
  match s.phase with
  | .idle => s.begin
  | .swap g => s.swapWord g
  | .callback slot => s.callbackStep slot
  | .apply => s.applyStep
  | .render => s.renderStep

/-- The reset input (70_reset R950): the whole state of the block becomes the reset state and nothing is emitted. The
outside world's words, order of moves and emitted blocks are not the block's state (R954, log 3). -/
def resetStep (s : State) : State :=
  { resetOf s.cfg with port := s.port, sched := s.sched, emitted := s.emitted }

end State
end Sys2Proof.Machine
end

