-- ==== Sys2Proof/Machine/HostPort.lean ====
section
/-! DEFINITION. The HOST's step: one whole command taken from the command port and executed, atomically (20_memory R210,
30_encoding R315). -/

namespace Sys2Proof.Machine

namespace State

/-- The HOST moves: the next command of the port is consumed and executed; one that is no command is refused with
ILLEGAL_CMD (60_exceptions R904). While there is no whole command on the port, nothing happens (log 3). -/
def hostStep (s : State) : Result :=
  match decode s.port with
  | .command i rest => exec i { s with port := rest }
  | .illegal _ rest => .next ({ s with port := rest }.reject .illegalCmd)
  | .waiting => .next s

/-- Who moves when the order of moves says nothing (log 2): the HOST while a whole command is on the port, else the
ENGINE. -/
def defaultAgent (s : State) : Agent :=
  match decode s.port with
  | .waiting => .engine
  | _ => .host

/-- One agent's step. -/
def agentStep (s : State) : Agent → Result
  | .host => s.hostStep
  | .engine => .next s.engineStep
  | .reset => .next s.resetStep

/-- The words of the command whose bits are w, numbered as the opcode table numbers them. -/
def commandWords (nbits w : Nat) : List Word :=
  if cmdLength (tableWords nbits w).1 = 2 then [(tableWords nbits w).1, (tableWords nbits w).2]
  else [(tableWords nbits w).1]

end State
end Sys2Proof.Machine
end

