-- ==== Sys2Proof/Machine/Step.lean ====
section
/-! DEFINITION. One step of the machine: the agent that moves next is at the head of `sched` (20_memory R210, log 2). -/

namespace Sys2Proof.Machine

/-- One atomic step of HOST, ENGINE or the reset input. -/
def step (s : State) : Host.Outcome State Fault Refusal :=
  match s.sched with
  | a :: rest => { s with sched := rest }.agentStep a
  | [] => s.agentStep s.defaultAgent

/-- The HOST presents the command with those bits and moves next: the very next step runs it (log 2, log 17). -/
def State.withFetchWord (s : State) (nbits w : Nat) : State :=
  { s with port := State.commandWords nbits w ++ s.port, sched := .host :: s.sched }

end Sys2Proof.Machine
end

