-- ==== Sys2Proof/Safety.lean ====
section
/-! DEFINITION. What claims are made in terms of: the command classes and the complete list of argument refusals
(30_encoding R310, 60_exceptions R903), and the invariants that the spec states of the block's state. -/

namespace Sys2Proof

/-- A diagnostic command is one of UNITs 2–7 (30_encoding R310). -/
def Instr.isDiagnostic : Instr → Bool
  | .nop => false
  | .noteOn _ _ _ => false
  | .noteOff _ => false
  | .setInstrument _ => false
  | .forceStopAll => false
  | .readStatus => false
  | .clearStatus _ => false
  | .engineStop => false
  | .engineRun => false
  | .paramSet _ _ => false
  | .paramAdd _ _ _ => false
  | .paramReset _ => false
  | .paramGet _ => false
  | .dlPush _ _ => true
  | .dlGetLast _ => true
  | .dlProcess _ _ => true
  | .dlSetDelay _ _ => true
  | .dlClear _ => true
  | .allocGet => true
  | .allocRelease _ => true
  | .tfSetDelay _ _ _ => true
  | .tfProcess _ _ _ => true
  | .lossSetCutoff _ _ _ => true
  | .lossSetType _ _ _ => true
  | .lossProcess _ _ _ => true
  | .lossPhaseDelay _ _ _ => true
  | .dispSetGD _ _ _ => true
  | .dispSetStages _ _ _ => true
  | .dispProcess _ _ _ => true
  | .dispPhaseDelay _ _ _ => true
  | .noiseSeed _ _ _ => true
  | .noiseNext _ _ => true

namespace Machine

/-- The complete list of conditions that give ILLEGAL_ARG (60_exceptions R903). -/
def argRefused (s : State) : Instr → Prop
  | .nop => False
  | .noteOn _ _ _ => False
  | .noteOff _ => False
  | .setInstrument fam => 3 ≤ fam
  | .forceStopAll => False
  | .readStatus => False
  | .clearStatus _ => False
  | .engineStop => False
  | .engineRun => False
  | .paramSet slot _ => s.cfg.val.table.length ≤ slot
  | .paramAdd slot _ _ => s.cfg.val.table.length ≤ slot
  | .paramReset slot => s.cfg.val.table.length ≤ slot
  | .paramGet slot => s.cfg.val.table.length ≤ slot
  | .dlPush line _ => s.nLines ≤ line
  | .dlGetLast line => s.nLines ≤ line
  | .dlProcess line _ => s.nLines ≤ line
  | .dlSetDelay line _ => s.nLines ≤ line
  | .dlClear line => s.nLines ≤ line
  | .allocGet => False
  | .allocRelease line => s.nLines ≤ line ∨ s.alloc.ownerOf line ≠ .host
  | .tfSetDelay fam _ _ => 3 ≤ fam
  | .tfProcess fam _ _ => 3 ≤ fam
  | .lossSetCutoff fam _ _ => 3 ≤ fam
  | .lossSetType fam _ _ => 3 ≤ fam ∨ fam = 1
  | .lossProcess fam _ _ => 3 ≤ fam
  | .lossPhaseDelay fam _ _ => 3 ≤ fam
  | .dispSetGD fam _ _ => 3 ≤ fam
  | .dispSetStages fam _ stages => 3 ≤ fam ∨ 5 ≤ stages
  | .dispProcess fam _ _ => 3 ≤ fam
  | .dispPhaseDelay fam _ _ => 3 ≤ fam
  | .noiseSeed fam _ _ => fam ≠ 0
  | .noiseNext fam _ => fam ≠ 0

/-! ### Invariants -/

/-- The delay-sample memory is in its canonical form. -/
def MemoryCanonical (s : State) : Prop := s.delay.mem.wf

/-- used and unused are disjoint and together hold 0 .. 7 once each, in every family (10_state R141, 46_polysynth
R750). -/
def PoolsPartition (s : State) : Prop := ∀ f : Family, ((s.pool f).used ++ (s.pool f).unused).Perm allVoices

/-- The allocator's invariants (41_delay_alloc R424, 10_state R131, 20_memory R217). -/
structure AllocatorConsistent (s : State) : Prop where
  /-- one OWNER per line -/
  owners : s.alloc.owner.length = s.nLines
  /-- (ii) no line appears twice in avail[0..top−1] -/
  nodup : s.alloc.avail.Nodup
  /-- available lines are lines of the pool -/
  availLines : ∀ l ∈ s.alloc.avail, l < s.nLines
  /-- (i) OWNER[l] = FREE iff l is available -/
  freeIff : ∀ l, l < s.nLines → (s.alloc.ownerOf l = .free ↔ l ∈ s.alloc.avail)
  /-- (iii) OWNER[l] = VOICE(f, v, k) iff voice[f][v].line[k] = l -/
  heldIff : ∀ l f v k, l < s.nLines → (s.alloc.ownerOf l = .voice f v k ↔ (s.voice f v).line k = some l)
  /-- a voice references lines of the pool only -/
  refLines : ∀ f v k l, (s.voice f v).line k = some l → l < s.nLines
  /-- only the active family holds lines (92 D8) -/
  activeHolds : ∀ f v k, f ≠ s.active → (s.voice f v).line k = none
  /-- a voice has nk(f) line references (10_state R136) -/
  slots : ∀ f v k, k ∉ lineSlots f → (s.voice f v).line k = none

/-- RAW stays in [min, max] of its row (10_state R110). -/
def RawInRange (s : State) : Prop :=
  s.raw.length = s.cfg.val.table.length ∧
  ∀ (i : Nat) (row : Config.ParamRow), s.cfg.val.table[i]? = some row →
    row.minVal ≤ s.rawAt i ∧ s.rawAt i ≤ row.maxVal

/-- Every live value is the live value of a raw value in range (10_state R112, 47_params R811), and every chain has 0 to
4 stages (10_state R134). -/
def LiveInRange (s : State) : Prop :=
  s.live.length = s.cfg.val.table.length ∧
  (∀ (i : Nat) (row : Config.ParamRow), s.cfg.val.table[i]? = some row →
    ∃ r : Int, row.minVal ≤ r ∧ r ≤ row.maxVal ∧ s.live[i]? = some (liveOf row r)) ∧
  ∀ f v, (s.voice f v).disp.m ≤ 4

/-- SNAP is all zero whenever PHASE = IDLE (46_polysynth R741), MODE = STOP only while IDLE (48_engine_control R854),
and the callbacks run in ascending slot order. -/
structure PhaseConsistent (s : State) : Prop where
  snapIdle : s.phase = .idle ∨ s.phase = .apply ∨ s.phase = .render → s.snap = Vector.replicate 4 0#32
  stopIdle : s.mode = .stop → s.phase = .idle
  ascending : ∀ t, s.phase = .callback t → ∀ u : Fin 128, u < t → slotBit s.snap u = false

/-- Every cursor and length lies in 0 .. C − 1, every listed sample and every line that is referenced or available lies
in the pool (10_state R130, 41_delay_alloc R412). -/
structure LinesInBounds (s : State) : Prop where
  lines : s.delay.lines.length = s.nLines
  cursors : ∀ x ∈ s.delay.lines, x.w < s.cap ∧ x.len < s.cap
  samples : ∀ c ∈ s.delay.mem, c.1 < s.nLines * s.cap
  avail : ∀ l ∈ s.alloc.avail, l < s.nLines
  refs : ∀ f v k l, (s.voice f v).line k = some l → l < s.nLines

/-- The excitation counter lies in 0 .. burstLen and so does the split point (10_state R137, 45_voices R612). -/
def BurstInRange (s : State) : Prop :=
  ∀ f v, (s.voice f v).n ≤ (s.voice f v).burstLen ∧ (s.voice f v).p ≤ (s.voice f v).burstLen

/-- All of the invariants. -/
structure Inv (s : State) : Prop where
  memory : MemoryCanonical s
  pools : PoolsPartition s
  alloc : AllocatorConsistent s
  raw : RawInRange s
  live : LiveInRange s
  phase : PhaseConsistent s
  bounds : LinesInBounds s
  burst : BurstInRange s

end Machine
end Sys2Proof
end

