-- ==== Sys2Proof/Certificates/Slice0/Obligations.lean ====
section
/-! DEFINITION. The statements for the provers, and the few notions they share. A statement about an instruction's
result is an equation for the whole next state, so it is that instruction's completion and its frame too. -/

open Sys2Proof
open Sys2Proof.Machine

/-! ### Shared notions -/

namespace Sys2Proof.Claims

/-- The reserved (UNIT, OP) pairs as 30_encoding R313 lists them. -/
def reservedPair (u o : Nat) : Prop :=
  8 ≤ u ∨ (u = 0 ∧ 9 ≤ o) ∨ (u = 1 ∧ 4 ≤ o) ∨ (u = 2 ∧ 5 ≤ o) ∨ (u = 3 ∧ 2 ≤ o) ∨ (u = 4 ∧ 2 ≤ o) ∨
    ((u = 5 ∨ u = 6) ∧ 4 ≤ o) ∨ (u = 7 ∧ 2 ≤ o)

/-- The (UNIT, OP) pairs of two words as 30_encoding R312 lists them. -/
def hasPayload (u o : Nat) : Prop :=
  (u = 0 ∧ o = 6) ∨ (u = 1 ∧ (o = 0 ∨ o = 1)) ∨ (u = 2 ∧ (o = 0 ∨ o = 2 ∨ o = 3)) ∨ (u = 4 ∧ (o = 0 ∨ o = 1)) ∨
    (u = 5 ∧ (o = 0 ∨ o = 2 ∨ o = 3)) ∨ (u = 6 ∧ (o = 0 ∨ o = 2 ∨ o = 3)) ∨ (u = 7 ∧ o = 0)

/-- What a refused command leaves (60_exceptions R905). -/
def refused (s : State) (code : ErrCode) : State := { s with result := 0#32, lastErr := code, cmdErr := true }

/-- What a command that passed every check leaves beside its own effect (60_exceptions R906). -/
def completed (s : State) (r : Word) : State := { s with result := r, lastErr := .ok }

/-- The refusals that a diagnostic command's own rule lists: in RUN mode, and on its line of 60_exceptions R903. -/
def Guarded (i : Instr) (s : State) : Prop :=
  (s.mode = .run → exec i s = .next (refused s .illegalState)) ∧
  (s.mode = .stop → argRefused s i → exec i s = .next (refused s .illegalArg))

/-- The HOST, a whole command waiting, moves next and leaves the order of moves `later`: by that order, or by log 2's default
when it says nothing. -/
def HostNext (s : State) (later : List Agent) : Prop := s.sched = .host :: later ∨ (s.sched = [] ∧ later = [])

/-- The HOST moves next: by the order of moves, or by log 2's default. -/
def HostMoves (s : State) : Prop := s.sched.head? = some .host ∨ (s.sched = [] ∧ decode s.port ≠ .waiting)

/-- The ENGINE moves next: by the order of moves, or by log 2's default. -/
def EngineMoves (s : State) : Prop := s.sched.head? = some .engine ∨ (s.sched = [] ∧ decode s.port = .waiting)

/-- The silence threshold of a family (00_scope R8, 92 D24). -/
def silenceThreshold (p : Config.Params) : Family → F32
  | .string => p.threshString
  | .reed => p.threshReed
  | .bow => p.threshBow

/-- The code that STATUS.LAST_ERR shows (60_exceptions R901). -/
def errorNumber : ErrCode → Nat
  | .ok => 0
  | .illegalCmd => 1
  | .illegalState => 2
  | .illegalArg => 3

/-- The number of a family (00_scope R9). -/
def familyNumber : Family → Nat
  | .string => 0
  | .reed => 1
  | .bow => 2

/-- The commands of a list, one after another. -/
def runAll : List Instr → State → Option State
  | [], s => some s
  | i :: is, s =>
    match exec i s with
    | .next t => runAll is t
    | _ => none

/-- The responses of the commands of a list, one after another. -/
def responses : List Instr → State → List Word
  | [], _ => []
  | i :: is, s =>
    match exec i s with
    | .next t => t.result :: responses is t
    | _ => []

/-- A diagnostic command may act: STOP mode, a line of the pool, and a cursor for every line (10_state R130). -/
structure LineReady (s : State) (l : Nat) : Prop where
  stopped : s.mode = .stop
  inPool : l < s.nLines
  cursors : s.delay.lines.length = s.nLines

/-- What GetLast then Push, once per sample, gives for a stream (41_delay_alloc R410). -/
def readThenPush (cap l : Nat) : DelayPool → List F32 → List F32
  | _, [] => []
  | d, x :: xs => d.getLast cap l :: readThenPush cap l (d.push cap l x) xs

/-- What Process, once per sample, gives for a stream (41_delay_alloc R410). -/
def processAll (cap l : Nat) : DelayPool → List F32 → List F32
  | _, [] => []
  | d, x :: xs => (d.process cap l x).2 :: processAll cap l (d.process cap l x).1 xs

/-- The slot that a parameter mutation names and the new raw value before the clamp (47_params R802, R803, R804). -/
def mutation (s : State) (row : Config.ParamRow) : Instr → Option (Fin 128 × Int)
  | .paramSet slot raw => some (slot, raw.toInt)
  | .paramAdd slot alt delta =>
    some (slot, s.rawAt slot + delta.toInt * row.step * (match alt with | true => row.altMul | false => 1))
  | .paramReset slot => some (slot, row.defaultVal)
  | _ => none

/-- The live value that 47_params R811 gives a raw value: f32(raw) / 100000.0 for a Float slot, else the integer itself. -/
def liveValue (row : Config.ParamRow) (raw : Int) : LiveVal :=
  if row.kind = .float then .f32 (Fp.div (Fp.ofInt raw) 0x47C35000#32) else .int raw

/-- A live value read as an f32; of an integer f32(n), the model's reading (log 15). -/
def f32Of : LiveVal → F32
  | .f32 x => x
  | .int n => Fp.ofInt n

/-- A live value read as a stage count: that integer where it is one of 0 .. 4, and one of 0 .. 4 in any case (log 15). -/
def StagesOf (x : LiveVal) (m : Nat) : Prop := m ≤ 4 ∧ ∀ n : Int, x = .int n → 0 ≤ n → n ≤ 4 → (m : Int) = n

/-- The coefficients that LF_Design computes from fc and type (43_loss R501). -/
def Designed (p : Config.Params) (F : Loss) : Prop :=
  let K := Fp.tan32 p.fns (Fp.div (Fp.mul Fp.pi32 F.fc) (Fp.ofInt p.fs))
  (F.ty = .lpf1 →
    F.b0 = Fp.div K (Fp.add Fp.one K) ∧ F.b1 = F.b0 ∧ F.b2 = Fp.zero ∧
    F.a1 = Fp.div (Fp.sub K Fp.one) (Fp.add Fp.one K) ∧ F.a2 = Fp.zero) ∧
  (F.ty = .lpf2 →
    let kq := Fp.mul K Fp.sqrt2
    let kk := Fp.mul K K
    let norm := Fp.div Fp.one (Fp.add (Fp.add Fp.one kq) kk)
    F.b0 = Fp.mul kk norm ∧ F.b1 = Fp.mul Fp.two F.b0 ∧ F.b2 = F.b0 ∧
    F.a1 = Fp.mul (Fp.mul Fp.two (Fp.sub kk Fp.one)) norm ∧
    F.a2 = Fp.mul (Fp.add (Fp.sub Fp.one kq) kk) norm)

/-- The ceiling of a family's loss filter: 20000.0 for String and Bow, 8000.0 for Reed (43_loss R500). -/
def lossCeiling : Family → F32
  | .string => 0x469C4000#32
  | .reed => 0x45FA0000#32
  | .bow => 0x469C4000#32

/-- G is F after LF_SetCutoff(F, x) (43_loss R504). -/
def CutoffSet (p : Config.Params) (f : Family) (F : Loss) (x : F32) (G : Loss) : Prop :=
  G.fc = Fp.min (Fp.max (if Fp.isNaN x then Fp.zero else x) Fp.zero) (lossCeiling f) ∧
  G.ty = F.ty ∧ G.s1 = F.s1 ∧ G.s2 = F.s2 ∧ Designed p G

/-- G is F after LF_SetType(F, t) (43_loss R505). -/
def TypeSet (p : Config.Params) (F : Loss) (t : LossType) (G : Loss) : Prop :=
  G.ty = t ∧ G.fc = F.fc ∧ G.s1 = Fp.zero ∧ G.s2 = Fp.zero ∧ Designed p G

/-- bypass and alpha are those of DP_Recompute (44_dispersion R553). -/
def Recomputed (D : Dispersion) : Prop :=
  if D.m = 0 ∨ Fp.lt Fp.zero D.gd = false then D.bypass = true ∧ D.alpha = Fp.zero
  else D.bypass = false ∧
    D.alpha = Fp.div (Fp.sub Fp.one (Fp.div D.gd (Fp.ofInt D.m))) (Fp.add Fp.one (Fp.div D.gd (Fp.ofInt D.m)))

/-- The group delay that DP_SetGD keeps (44_dispersion R554). -/
def keptGroupDelay (g : F32) : F32 := if Fp.isNaN g then Fp.zero else Fp.min g Fp.tfDMax

/-- D after M and GD are set; the stage states are kept (44_dispersion R553, R554). -/
def DispersionSet (D : Dispersion) (m : Nat) (gd : F32) (E : Dispersion) : Prop :=
  E.m = m ∧ E.gd = gd ∧ E.vs = D.vs ∧ Recomputed E

/-- The phase-delay formula's tail: −(arg B − arg A) / w. -/
def phaseOver (fns : Config.Functions) (br bi ar ai w : F32) : F32 :=
  Fp.div (Fp.neg (Fp.sub (Fp.atan2 fns bi br) (Fp.atan2 fns ai ar))) w

/-- w of a frequency (43_loss R503). -/
def angular (fs : Nat) (freq : F32) : F32 := Fp.div (Fp.mul (Fp.mul Fp.two Fp.pi32) freq) (Fp.ofInt fs)

/-- ph is next(n − 1) of 46_polysynth R741: the least slot from n on whose bit is set, or APPLY. -/
def NextCallback (snap : Vector Word 4) (n : Nat) (ph : Phase) : Prop :=
  (∃ t : Fin 128, ph = .callback t ∧ n ≤ t.val ∧ slotBit snap t = true ∧
    ∀ u : Fin 128, n ≤ u.val → u < t → slotBit snap u = false) ∨
  (ph = .apply ∧ ∀ u : Fin 128, n ≤ u.val → slotBit snap u = false)

/-- envCoef(ms) (45_voices R640). -/
def envelopeCoef (p : Config.Params) (ms : F32) : F32 :=
  if Fp.lt Fp.zero ms then
    Fp.sub Fp.one (Fp.exp32 p.fns (Fp.neg (Fp.div Fp.thousand (Fp.mul (Fp.ofInt p.fs) ms))))
  else Fp.one

/-- EnvStep(e, target, kA, kR) (45_voices R641). -/
def envelopeStep (e target : F32) (k : EnvCoefs) : F32 :=
  Fp.add e (Fp.mul (Fp.sub target e) (if Fp.lt e target then k.kA else k.kR))

/-- The filters of the loop in order: tuning, loss, dispersion (45_voices R620–R622). -/
def FilteredBy (V : Voice) (y : F32) (W : Voice) (out : F32) : Prop :=
  let t := tfStep V.tune y
  let F := lfStep V.loss t.2
  let D := dpStep V.disp F.2
  W = { V with tune := t.1, loss := F.1, disp := D.1 } ∧ out = D.2

/-- The note requests from a list of notes, in the list's order (46_polysynth R742). -/
def applyRequests (Q : Vector NoteReq 128) : List (Fin 128) → State → State
  | [], s => s
  | n :: ns, s =>
    applyRequests Q ns (match Q[n] with
      | .on ch vel => s.psNoteOn s.active ch n vel
      | .off => s.psNoteOff s.active n
      | .none => s)

/-- A finite number. -/
def finite (x : F32) : Prop := Fp.isNaN x = false ∧ Fp.isInf x = false

/-- The number that a finite bit pattern stands for. -/
def value (x : F32) : ℚ := (Fp.signedSignificand x : ℚ) * (2 : ℚ) ^ (Fp.exponent x)

/-- r is x rounded to nearest, ties to even: no finite number is nearer, and at a tie r is the even one. An infinite r
needs an x past the largest finite number by half its last place. r has the sign of an x that is not 0. -/
def RoundsTo (x : ℚ) (r : F32) : Prop :=
  Fp.isNaN r = false ∧
  (x ≠ 0 → Fp.isNeg r = decide (x < 0)) ∧
  (Fp.isInf r = true ↔ (2 ^ 25 - 1) * 2 ^ 103 ≤ |x|) ∧
  (Fp.isInf r = false → ∀ z : F32, finite z →
    |value r - x| ≤ |value z - x| ∧ (|value r - x| = |value z - x| → value z ≠ value r → r.toNat % 2 = 0))

/-- n samples of a voice, one step after another: the outputs, and the voice and the lines at the end (45_voices R626). -/
def stepsOf (E : VoiceEnv) (f : Family) : Nat → Voice → DelayPool → List F32 × Voice × DelayPool
  | 0, V, d => ([], V, d)
  | n + 1, V, d =>
    let r := voiceStep E f V d
    let rest := stepsOf E f n r.voice r.delay
    (r.out :: rest.1, rest.2)

/-- Voice v of family f after its NoteOn (46_polysynth R710, 45_voices R611): VoiceNoteOn on the voice and its lines. -/
def started (s : State) (f : Family) (v : Fin 8) (ch : Fin 16) (note vel : Fin 128) : State :=
  let r := voiceNoteOn ⟨s.cfg.val, s.live, s.envReed, s.envBow⟩ f ch note vel (s.voice f v) s.delay
  { s.setVoice f v r.1 with delay := r.2 }

/-- The blocks that RENDER's voices give in used order, each on what the voices before it left (46_polysynth R743). -/
def voiceBlocks (f : Family) : List (Fin 8) → State → List (List F32)
  | [], _ => []
  | v :: vs, s =>
    let b := voiceBlock s.voiceEnv f (s.voice f v) s.delay
    b.samples :: voiceBlocks f vs { s.setVoice f v b.voice with delay := b.delay }

/-- The state after RENDER's voices, each rendered in used order on what the voices before it left (46_polysynth R743). -/
def rendered (f : Family) : List (Fin 8) → State → State
  | [], s => s
  | v :: vs, s =>
    let b := voiceBlock s.voiceEnv f (s.voice f v) s.delay
    rendered f vs { s.setVoice f v b.voice with delay := b.delay }

/-- The place of line k of voice v in checkout order: voices ascending, and lines ascending in each (41_delay_alloc R422). -/
def lineOrder (f : Family) (v : Fin 8) (k : Fin 2) : Nat := v.val * (lineSlots f).length + k.val

/-- The lines that a family's voices hold, in checkout order. -/
def heldLines (f : Family) (bank : Bank) : List Nat :=
  (List.finRange 8).flatMap fun v => (lineSlots f).filterMap fun k => bank[v].line k

end Sys2Proof.Claims

open Sys2Proof.Claims

/-! ### Encoding -/

/-- Every well-formed command decodes from its own words, whatever follows them (R300–R312, R315). -/
def Obligations.DecodeOfEncode : Prop :=
  ∀ (i : Instr) (rest : List Word), i.wellFormed = true → decode (encode i ++ rest) = .command i rest

/-- Whatever decodes as a command is the encoding of that command, and the command is well-formed: no two words stand for
one command and no reserved bit is ignored (R304–R309, R311). -/
def Obligations.EncodeOfDecode : Prop :=
  ∀ (ws : List Word) (i : Instr) (rest : List Word), decode ws = .command i rest →
    i.wellFormed = true ∧ ws = encode i ++ rest

/-- The worked encodings of R333. -/
def Obligations.WorkedEncodings : Prop :=
  decode [0x01004564#32] = .command (.noteOn 0 69 100) [] ∧
  decode [0x02004500#32] = .command (.noteOff 69) [] ∧
  decode [0x03000002#32] = .command (.setInstrument 2) [] ∧
  decode [0x11000103#32, 0xFFFFFFFD#32] = .command (.paramAdd 3 true (BitVec.ofInt 32 (-3))) [] ∧
  decode [0x20000009#32, 0x3F800000#32] = .command (.dlPush 9 Fp.one) [] ∧
  decode [0x40000002#32, 0x40500000#32] = .command (.tfSetDelay 0 2 0x40500000#32) [] ∧
  decode [0x51000127#32] = .command (.lossSetType 2 7 .lpf2) [] ∧
  decode [0x61000310#32] = .command (.dispSetStages 1 0 3) []

/-- A word decodes to a command iff it matches a row under the row's mask, and no word matches two rows (R311). -/
def Obligations.DecodesIffOneRowMatches : Prop :=
  (∀ w0 p rest, (∃ i ws, decode (w0 :: p :: rest) = .command i ws) ↔ ∃ r ∈ opRows, w0 &&& r.mask = r.pattern) ∧
  opRows.Pairwise fun r q => ∀ w : Word, ¬(w &&& r.mask = r.pattern ∧ w &&& q.mask = q.pattern)

/-- The length of a command is a function of (UNIT, OP) alone, illegal commands included (R300, R312). -/
def Obligations.LengthFromOpcodeAlone : Prop :=
  ∀ w0 p rest, ∃ ws, ((∃ i, decode (w0 :: p :: rest) = .command i ws) ∨
      ∃ why, decode (w0 :: p :: rest) = .illegal why ws) ∧
    (hasPayload (unitOf w0) (opOf w0) → ws = rest) ∧ (¬hasPayload (unitOf w0) (opOf w0) → ws = p :: rest)

/-- A reserved (UNIT, OP) is one word long; a defined one with a reserved bit set takes its payload with it. Both are
refused with ILLEGAL_CMD in either mode, and nothing changes but RESULT, LAST_ERR and CMD_ERR (R313, R904). That the HOST moves
when the order of moves is empty is the model's choice (log 2). -/
def Obligations.IllegalCommandsAreRefused : Prop :=
  ∀ (s : State) (later : List Agent) (w0 p : Word) (rest : List Word), HostNext s later →
    (reservedPair (unitOf w0) (opOf w0) → s.port = w0 :: rest →
      step s = .next (refused { s with port := rest, sched := later } .illegalCmd)) ∧
    ((∀ r ∈ opRows, w0 &&& r.mask ≠ r.pattern) → ¬hasPayload (unitOf w0) (opOf w0) → s.port = w0 :: rest →
      step s = .next (refused { s with port := rest, sched := later } .illegalCmd)) ∧
    ((∀ r ∈ opRows, w0 &&& r.mask ≠ r.pattern) → hasPayload (unitOf w0) (opOf w0) → s.port = w0 :: p :: rest →
      step s = .next (refused { s with port := rest, sched := later } .illegalCmd))

/-! ### Steps -/

/-- When the words on the port decode to a command and the HOST moves next (by the order of moves, or by log 2's default
when that says nothing), step is exec of that command on the state with its words consumed. -/
def Obligations.StepRunsTheDecodedCommand : Prop :=
  ∀ (s : State) (i : Instr) (rest : List Word), decode s.port = .command i rest →
    (∀ later, s.sched = .host :: later → step s = exec i { s with port := rest, sched := later }) ∧
    (s.sched = [] → step s = exec i { s with port := rest })

/-- The other moves (R6, R950, log 2, log 3): the ENGINE's; the reset input's, at any time, which leaves the reset state
and emits nothing; and a HOST that has sent no whole command. -/
def Obligations.StepOfTheOtherAgents : Prop :=
  ∀ (s : State) (later : List Agent),
    (s.sched = .engine :: later → step s = .next ({ s with sched := later } : State).engineStep) ∧
    (s.sched = [] → decode s.port = .waiting → step s = .next s.engineStep) ∧
    (s.sched = .reset :: later → step s = .next
      { State.resetOf s.cfg with port := s.port, sched := later, emitted := s.emitted }) ∧
    (s.sched = .host :: later → decode s.port = .waiting → step s = .next { s with sched := later })

/-- Every state has a next state, whichever agent moves, and so has every command (R900): no trap, no stop. -/
def Obligations.EveryStepHasANextState : Prop :=
  (∀ s, ∃ t, step s = .next t) ∧ ∀ i s, ∃ t, exec i s = .next t

/-! ### Checks, refusal and success -/

/-- Command classes and the mode gate (R310, R902): UNITs 2 to 7 are refused with ILLEGAL_STATE in RUN mode, whatever STOP_REQ
says; no other command and no other mode gives that code; and UNITs 0 and 1 touch only the shared registers, STATUS and
RESULT. -/
def Obligations.ModeGateAndCommandClasses : Prop :=
  ∀ (i : Instr) (s : State),
    (i.wellFormed = true → ∀ w ws, encode i = w :: ws → (i.isDiagnostic = true ↔ 2 ≤ unitOf w)) ∧
    (i.isDiagnostic = true → s.mode = .run → exec i s = .next (refused s .illegalState)) ∧
    ((i.isDiagnostic = true → s.mode = .stop) → ∀ t, exec i s = .next t → t.lastErr ≠ .illegalState) ∧
    (i.isDiagnostic = false → ∀ t, exec i s = .next t → t =
      { s with
        raw := t.raw, dirty := t.dirty, req := t.req, instrReq := t.instrReq, fsaReq := t.fsaReq, stopReq := t.stopReq,
        mode := t.mode, allocFail := t.allocFail, cmdErr := t.cmdErr, lastErr := t.lastErr, result := t.result })

/-- The complete list of argument refusals (R903): a command whose mode is right is refused with ILLEGAL_ARG when its line
of the list says so, and otherwise succeeds, whatever its payload is. -/
def Obligations.ArgumentChecks : Prop :=
  ∀ (i : Instr) (s : State), (i.isDiagnostic = true → s.mode = .stop) →
    (argRefused s i → exec i s = .next (refused s .illegalArg)) ∧
    (¬argRefused s i → ∃ t, exec i s = .next t ∧ t.lastErr = .ok)

/-- Refusal and success (R905, R906). The checks have an order: encoding first, then mode, then arguments. A refused command
changes RESULT, LAST_ERR and CMD_ERR and nothing else; one that succeeds leaves CMD_ERR alone (CLEAR_STATUS is the one
that clears it, R852). That the HOST moves when the order of moves is empty is the model's choice (log 2). -/
def Obligations.RefusalAndSuccess : Prop :=
  (∀ (s : State) later why rest, HostNext s later → decode s.port = .illegal why rest →
    step s = .next (refused { s with port := rest, sched := later } .illegalCmd)) ∧
  (∀ (i : Instr) (s : State), i.isDiagnostic = true → s.mode = .run → argRefused s i →
    exec i s = .next (refused s .illegalState)) ∧
  (∀ (i : Instr) (s t : State), exec i s = .next t → t.lastErr ≠ .ok → t = refused s t.lastErr) ∧
  ∀ (i : Instr) (s t : State), exec i s = .next t → t.lastErr = .ok → (∀ mask, i ≠ .clearStatus mask) →
    t.cmdErr = s.cmdErr

/-- Who writes what, over every step: the configuration is fixed (R143); and unless the step is the reset, ACTIVE changes
only when the ENGINE does APPLY (R116), LIVE only when it does a CALLBACK (R112, R960), RAW only when the HOST runs PARAM_SET,
PARAM_ADD or PARAM_RESET (R110), and STOP mode is entered only at the ENGINE's block tick with a stop pending, which takes the
request and emits a block of zeros (R115, R740, R853). Who moves when the order of moves is empty is the model's choice (log
2). -/
def Obligations.WhoWritesWhat : Prop :=
  ∀ (s t : State), step s = .next t →
    let zeros := List.replicate s.cfg.val.block Fp.zero
    t.cfg = s.cfg ∧
    (s.sched.head? ≠ some .reset →
      (t.active ≠ s.active → EngineMoves s ∧ s.phase = .apply ∧ t.phase = .render) ∧
      (t.live ≠ s.live → EngineMoves s ∧ t.phase ≠ s.phase ∧ ∃ slot, s.phase = .callback slot) ∧
      (t.raw ≠ s.raw → HostMoves s ∧ ∃ i rest, decode s.port = .command i rest ∧
        ((∃ slot x, i = .paramSet slot x) ∨ (∃ slot alt x, i = .paramAdd slot alt x) ∨ ∃ slot, i = .paramReset slot)) ∧
      (t.mode = .stop → s.mode = .run → EngineMoves s ∧ s.phase = .idle ∧ s.stopReq = true ∧ t.stopReq = false ∧
        t.emitted = s.emitted ++ [⟨zeros, zeros⟩]))

/-! ### UNIT 0 -/

/-- NOTE_ON and NOTE_OFF write one request register, in either mode (R700, R701). -/
def Obligations.NoteRequests : Prop :=
  ∀ (s : State) (ch : Fin 16) (note vel : Fin 128),
    (∃ r : Vector NoteReq 128, exec (.noteOn ch note vel) s = .next (completed { s with req := r } 0#32) ∧
      r[note] = .on ch vel ∧ ∀ m : Fin 128, m ≠ note → r[m] = s.req[m]) ∧
    (∃ r : Vector NoteReq 128, exec (.noteOff note) s = .next (completed { s with req := r } 0#32) ∧
      r[note] = .off ∧ ∀ m : Fin 128, m ≠ note → r[m] = s.req[m])

/-- SET_INSTRUMENT, FORCE_STOP_ALL, ENGINE_STOP, ENGINE_RUN and NOP (R702, R703, R850, R853, R854). -/
def Obligations.EngineRequests : Prop :=
  ∀ (s : State),
    exec (.setInstrument 0) s = .next (completed { s with instrReq := ⟨true, .string⟩ } 0#32) ∧
    exec (.setInstrument 1) s = .next (completed { s with instrReq := ⟨true, .reed⟩ } 0#32) ∧
    exec (.setInstrument 2) s = .next (completed { s with instrReq := ⟨true, .bow⟩ } 0#32) ∧
    exec (.setInstrument 3) s = .next (refused s .illegalArg) ∧
    exec .forceStopAll s = .next (completed { s with fsaReq := true } 0#32) ∧
    exec .engineStop s = .next (completed { s with stopReq := true } 0#32) ∧
    exec .engineRun s = .next (completed { s with mode := .run, stopReq := false } 0#32) ∧
    exec .nop s = .next (completed s 0#32)

/-- READ_STATUS gives the fields of R120 in their places, LAST_ERR as the previous command left it and by R901's numbers, and
clears LAST_ERR (R851, R855). The two premises are invariants (StepKeepsPoolPartition, StepKeepsAllocator). -/
def Obligations.ReadStatusFields : Prop :=
  ∀ s : State, (s.pool s.active).used.length ≤ 8 → s.alloc.avail.length ≤ 255 →
    ∃ w, exec .readStatus s = .next (completed s w) ∧
      w.getLsbD 0 = s.allocFail ∧ w.getLsbD 1 = s.cmdErr ∧ fieldOf w 3 2 = 0 ∧
      fieldOf w 7 4 = errorNumber s.lastErr ∧ fieldOf w 11 8 = (s.pool s.active).used.length ∧
      fieldOf w 13 12 = familyNumber s.active ∧ w.getLsbD 14 = decide (s.mode = .stop) ∧ w.getLsbD 15 = s.stopReq ∧
      fieldOf w 23 16 = s.alloc.avail.length ∧ w.getLsbD 24 = s.instrReq.valid ∧ w.getLsbD 25 = s.fsaReq ∧
      w.getLsbD 26 = decide (s.phase ≠ .idle) ∧ fieldOf w 31 27 = 0

/-- CLEAR_STATUS clears the sticky flags that the mask names, ignores the other mask bits, and answers the STATUS word
after the clears: the word READ_STATUS would give then (R852). -/
def Obligations.ClearStatus : Prop :=
  ∀ (mask : Word) (s : State), ∃ w,
    let t : State :=
      { s with
        allocFail := if mask.getLsbD 0 then false else s.allocFail
        cmdErr := if mask.getLsbD 1 then false else s.cmdErr
        lastErr := .ok }
    exec (.clearStatus mask) s = .next { t with result := w } ∧ exec .readStatus t = .next { t with result := w }

/-! ### UNIT 1 -/

/-- PARAM_SET, PARAM_ADD and PARAM_RESET clamp in unbounded integers, store, answer the stored value and set the slot's dirty
bit iff the value changed; no other slot or bit changes; an unassigned slot is refused (R802, R803, R804, R810). -/
def Obligations.ParamMutation : Prop :=
  (∀ (s : State) (slot : Fin 128) (alt : Bool) (x : Word), s.cfg.val.table.length ≤ slot.val →
    exec (.paramSet slot x) s = .next (refused s .illegalArg) ∧
    exec (.paramAdd slot alt x) s = .next (refused s .illegalArg) ∧
    exec (.paramReset slot) s = .next (refused s .illegalArg)) ∧
  ∀ (s : State) (i : Instr) (slot : Fin 128) (row : Config.ParamRow) (new : Int), RawInRange s →
    s.cfg.val.table[slot.val]? = some row → mutation s row i = some (slot, new) →
    ∃ raw dirty,
      let t := completed { s with raw := raw, dirty := dirty } (BitVec.ofInt 32 (max row.minVal (min new row.maxVal)))
      exec i s = .next t ∧
      t.rawAt slot = max row.minVal (min new row.maxVal) ∧ raw.length = s.raw.length ∧
      (∀ j : Nat, j ≠ slot.val → raw[j]? = s.raw[j]?) ∧
      slotBit dirty slot = (slotBit s.dirty slot || decide (t.rawAt slot ≠ s.rawAt slot)) ∧
      ∀ u : Fin 128, u ≠ slot → slotBit dirty u = slotBit s.dirty u

/-- PARAM_GET answers RAW and changes nothing else, in either mode (R805); from reset the 31 slots of the default table
answer their defaults (R830). An unassigned slot is refused (R801). -/
def Obligations.ParamGet : Prop :=
  (∀ (s : State) (slot : Fin 128) (w : Word), RawInRange s → s.raw[slot.val]? = some w →
    exec (.paramGet slot) s = .next (completed s w)) ∧
  responses ((List.range 31).map fun i => .paramGet (Fin.ofNat 128 i)) State.reset =
    [200000000#32, 800000000#32, 0#32, 50000#32, 50000#32, 0#32, 4#32, 1#32] ++
    [80000#32, 2000000#32, 5000000#32, 30000#32, 60000#32, 70000#32, 95000#32, 400000000#32, 0#32, 4#32] ++
    [25000#32, 12500#32, 300000#32, 0#32, 1000#32, 98000#32, 5000000#32, 10000000#32, 95000#32, 600000000#32, 0#32,
      0#32, 4#32] ∧
  ∀ (s : State) (slot : Fin 128), s.cfg.val.table.length ≤ slot.val →
    exec (.paramGet slot) s = .next (refused s .illegalArg)

/-- Add of δ and then of −δ restores every raw value when the first sum stays in range (R824). -/
def Obligations.ParamAddRoundTrip : Prop :=
  ∀ (s t u : State) (slot : Fin 128) (row : Config.ParamRow) (delta back : Word), RawInRange s →
    s.cfg.val.table[slot.val]? = some row → back.toInt = -delta.toInt →
    row.minVal ≤ s.rawAt slot + delta.toInt * row.step → s.rawAt slot + delta.toInt * row.step ≤ row.maxVal →
    exec (.paramAdd slot false delta) s = .next t → exec (.paramAdd slot false back) t = .next u → u.raw = s.raw

/-! ### UNITs 2 and 3 -/

/-- DL_PUSH stores the sample at l·C + w and then advances the cursor; every other word, line and register is unchanged
(R401). -/
def Obligations.DlPush : Prop :=
  ∀ (s : State) (l : Nat) (x : F32), Guarded (.dlPush l x) s ∧ (LineReady s l →
    ∃ d, exec (.dlPush l x) s = .next (completed { s with delay := d } 0#32) ∧
      let w := (s.delay.line l).w
      d.mem.read (l * s.cap + w) = x ∧
      (∀ a, a ≠ l * s.cap + w → d.mem.read a = s.delay.mem.read a) ∧
      d.line l = ⟨(w + 1) % s.cap, (s.delay.line l).len⟩ ∧
      (∀ k, k ≠ l → d.line k = s.delay.line k) ∧ d.lines.length = s.delay.lines.length)

/-- DL_GETLAST answers the word at l·C + ((w − L) mod C) and changes nothing else; DL_SETDELAY clamps the length to
0 .. C − 1, answers it, and leaves samples and cursors alone (R402, R403). -/
def Obligations.DlGetLastAndSetDelay : Prop :=
  ∀ (s : State) (l : Nat) (n : Word), Guarded (.dlGetLast l) s ∧ Guarded (.dlSetDelay l n) s ∧ (LineReady s l →
    exec (.dlGetLast l) s = .next (completed s (s.delay.mem.read
      (l * s.cap + ((((s.delay.line l).w : Int) - (s.delay.line l).len) % s.cap).toNat))) ∧
    ∃ d, exec (.dlSetDelay l n) s = .next (completed { s with delay := d } (BitVec.ofNat 32 (d.line l).len)) ∧
      d.mem = s.delay.mem ∧ ((d.line l).len : Int) = max 0 (min n.toInt (s.cap - 1)) ∧
      (d.line l).w = (s.delay.line l).w ∧
      (∀ k, k ≠ l → d.line k = s.delay.line k) ∧ d.lines.length = s.delay.lines.length)

/-- DL_PROCESS is DL_PUSH and then DL_GETLAST in one command; with L = 1 it answers the sample itself (R404). -/
def Obligations.DlProcess : Prop :=
  ∀ (s : State) (l : Nat) (x : F32), Guarded (.dlProcess l x) s ∧ (LineReady s l → (s.delay.line l).w < s.cap →
    ∃ d y, exec (.dlProcess l x) s = .next (completed { s with delay := d } y) ∧
      exec (.dlPush l x) s = .next (completed { s with delay := d } 0#32) ∧
      exec (.dlGetLast l) { s with delay := d } = .next (completed { s with delay := d } y) ∧
      ((s.delay.line l).len = 1 → y = x))

/-- DL_CLEAR makes every sample of the line +0.0 and its cursor 0; the length, the other lines' samples and everything else
are kept (R405). -/
def Obligations.DlClear : Prop :=
  ∀ (s : State) (l : Nat), Guarded (.dlClear l) s ∧ (LineReady s l →
    ∃ d, exec (.dlClear l) s = .next (completed { s with delay := d } 0#32) ∧
      (∀ i, i < s.cap → d.mem.read (l * s.cap + i) = Fp.zero) ∧
      (∀ a, ¬(l * s.cap ≤ a ∧ a < (l + 1) * s.cap) → d.mem.read a = s.delay.mem.read a) ∧
      d.line l = ⟨0, (s.delay.line l).len⟩ ∧
      (∀ k, k ≠ l → d.line k = s.delay.line k) ∧ d.lines.length = s.delay.lines.length)

/-- The round-trip property (R411): SetDelay(L), exactly L pushes, and GetLast answers the first pushed sample, for
1 ≤ L ≤ C − 1, by commands. -/
def Obligations.DelayRoundTrip : Prop :=
  ∀ (s : State) (l : Nat) (x : F32) (xs : List F32), LineReady s l → (s.delay.line l).w < s.cap →
    xs.length + 1 < s.cap →
    ∃ t, runAll (.dlSetDelay l (BitVec.ofNat 32 (xs.length + 1)) ::
        ((x :: xs).map fun y => .dlPush l y) ++ [.dlGetLast l]) s = some t ∧ t.result = x

/-- The delay that each access pattern realises on a cleared line (R410): read-before-push gives L samples, or C when L = 0;
Process gives L − 1, or C − 1 when L = 0. -/
def Obligations.DelayRealised : Prop :=
  ∀ (s : State) (l len : Nat) (xs : List F32), l < s.nLines → s.delay.lines.length = s.nLines → len < s.cap →
    let d := (s.delay.setDelay s.cap l len).clear s.cap l
    let realised := if len = 0 then s.cap else len
    readThenPush s.cap l d xs = (List.replicate realised Fp.zero ++ xs).take xs.length ∧
    processAll s.cap l d xs = (List.replicate (realised - 1) Fp.zero ++ xs).take xs.length

/-- ALLOC_GET takes the top of the stack for the HOST, or answers NULL_LINE and changes nothing; ALLOC_RELEASE puts a line
that the HOST owns back on top (R420, R421). The premise is an invariant (StepKeepsAllocator). -/
def Obligations.AllocGetAndRelease : Prop :=
  ∀ s : State, Guarded .allocGet s ∧ (∀ l, Guarded (.allocRelease l) s) ∧ (s.mode = .stop → AllocatorConsistent s →
    (s.alloc.avail = [] → exec .allocGet s = .next (completed s 0xFFFFFFFF#32)) ∧
    (∀ l rest, s.alloc.avail = l :: rest →
      ∃ owner, exec .allocGet s = .next (completed { s with alloc := ⟨rest, owner⟩ } (BitVec.ofNat 32 l)) ∧
        owner[l]? = some .host ∧ ∀ k, k ≠ l → owner[k]? = s.alloc.owner[k]?) ∧
    (∀ l, s.alloc.owner[l]? = some .host →
      ∃ owner, exec (.allocRelease l) s = .next (completed { s with alloc := ⟨l :: s.alloc.avail, owner⟩ } 0#32) ∧
        owner[l]? = some .free ∧ ∀ k, k ≠ l → owner[k]? = s.alloc.owner[k]?))

/-- The allocator's properties (R425): with n lines available, n ALLOC_GETs answer n different lines and the next answers
NULL_LINE; and a line that is checked in is the next one checked out. -/
def Obligations.AllocatorExhaustion : Prop :=
  (∀ s : State, s.mode = .stop → AllocatorConsistent s →
    responses (List.replicate s.alloc.avail.length .allocGet) s = s.alloc.avail.map (BitVec.ofNat 32) ∧
    (s.alloc.avail.map (BitVec.ofNat 32)).Nodup ∧ 0xFFFFFFFF#32 ∉ s.alloc.avail.map (BitVec.ofNat 32) ∧
    responses (List.replicate (s.alloc.avail.length + 1) .allocGet) s =
      s.alloc.avail.map (BitVec.ofNat 32) ++ [0xFFFFFFFF#32] ∧
    ∀ l, s.alloc.owner[l]? = some .host → responses [.allocRelease l, .allocGet] s = [0#32, BitVec.ofNat 32 l]) ∧
  responses (List.replicate 9 .allocGet) { State.reset with mode := .stop } =
    [8#32, 9#32, 10#32, 11#32, 12#32, 13#32, 14#32, 15#32, 0xFFFFFFFF#32]

/-- Checkout gives the lines on the stack of available ones to the family's voices in order, NONE where the stack ends, and
records a short pool; Release puts every held line back so that the stack has them in checkout order; and a Release that
follows a Checkout restores the stack, even when the pool ran short (R422, R423). The premise on lines and owners is an
invariant (StepKeepsAllocator). A stack that the HOST
has permuted is used as it stands (log 22). -/
def Obligations.ReleaseUndoesCheckout : Prop :=
  ∀ (f : Family) (h : Holding),
    (let c := checkout f h
     let n := 8 * (lineSlots f).length
     c.alloc.avail = h.alloc.avail.drop n ∧ c.allocFail = (h.allocFail || decide (h.alloc.avail.length < n)) ∧
     (∀ v : Fin 8,
       c.bank[v] = { h.bank[v] with line0 := c.bank[v].line0, line1 := c.bank[v].line1 } ∧
       (∀ k ∈ lineSlots f, c.bank[v].line k = h.alloc.avail[lineOrder f v k]?) ∧
       ∀ k, k ∉ lineSlots f → c.bank[v].line k = h.bank[v].line k) ∧
     (h.alloc.avail.Nodup → (∀ l ∈ h.alloc.avail, l < h.alloc.owner.length) →
       (∀ v : Fin 8, ∀ k ∈ lineSlots f, ∀ l, h.alloc.avail[lineOrder f v k]? = some l →
         c.alloc.owner[l]? = some (.voice f v k)) ∧
       ∀ l, l ∉ h.alloc.avail.take n → c.alloc.owner[l]? = h.alloc.owner[l]?)) ∧
    (let d := release f h
     d.alloc.avail = heldLines f h.bank ++ h.alloc.avail ∧ d.allocFail = h.allocFail ∧
     (∀ v : Fin 8,
       d.bank[v] = { h.bank[v] with line0 := d.bank[v].line0, line1 := d.bank[v].line1 } ∧
       (∀ k ∈ lineSlots f, d.bank[v].line k = none) ∧ ∀ k, k ∉ lineSlots f → d.bank[v].line k = h.bank[v].line k) ∧
     (∀ l ∈ heldLines f h.bank, l < h.alloc.owner.length → d.alloc.owner[l]? = some .free) ∧
     ∀ l, l ∉ heldLines f h.bank → d.alloc.owner[l]? = h.alloc.owner[l]?) ∧
    (release f (checkout f h)).alloc.avail = h.alloc.avail

/-! ### UNITs 4 to 7 -/

/-- TF_SETDELAY splits the delay, sets alpha and answers the integer part; TF_PROCESS is one allpass step (R450, R451,
R452). No other voice, field or register changes. That the step of R452's pseudocode holds for alpha = 0 and an infinite or
NaN v too, so that v becomes a NaN, is the model's reading (log 20). -/
def Obligations.TuneCommands : Prop :=
  ∀ (s : State) (fam : Nat) (f : Family) (v : Fin 8) (x : F32),
    Guarded (.tfSetDelay fam v x) s ∧ Guarded (.tfProcess fam v x) s ∧
    (s.mode = .stop → familyOf fam = some f →
    let T := (s.voice f v).tune
    let d := Fp.min x Fp.tfDMax
    let frac := Fp.sub d (Fp.floor d)
    let whole := Fp.toInt (Fp.floor d)
    let g := if Fp.lt frac Fp.half then Fp.add frac Fp.one else frac
    let i := if Fp.lt frac Fp.half then whole - 1 else whole
    let t2 := Fp.sub x (Fp.mul T.alpha T.v)
    (Fp.isNaN x = true ∨ Fp.lt x Fp.half = true → exec (.tfSetDelay fam v x) s = .next
      (completed (s.setVoice f v { s.voice f v with tune := { T with alpha := Fp.zero } }) 0#32)) ∧
    (Fp.isNaN x = false → Fp.lt x Fp.half = false → exec (.tfSetDelay fam v x) s = .next
      (completed (s.setVoice f v { s.voice f v with
        tune := { T with alpha := Fp.div (Fp.sub Fp.one g) (Fp.add Fp.one g) } }) (BitVec.ofInt 32 i))) ∧
    exec (.tfProcess fam v x) s = .next
      (completed (s.setVoice f v { s.voice f v with tune := { T with v := t2 } })
        (Fp.add T.v (Fp.mul T.alpha t2))))

/-- The integer part lies in 0 .. 65535 for every delay, NaNs and infinities included; from 65536.0 up it is 65535 with
alpha +0.0 (R450, R451). -/
def Obligations.TuningSplitRange : Prop :=
  ∀ (T : Tuning) (d : F32), 0 ≤ (tfSplit T d).2 ∧ (tfSplit T d).2 ≤ 65535 ∧
    (Fp.le Fp.tfDMax d = true → tfSplit T d = ({ T with alpha := Fp.zero }, 65535))

/-- LOSS_SETCUTOFF clamps the cutoff, redesigns, keeps the cells and answers the cutoff; LOSS_SETTYPE sets the type of a
String or Bow filter, zeroes the cells and redesigns, and a Reed filter refuses it (R501, R504, R505, R510, R511). That the
coefficients of a cutoff −0.0 are R501's too, against R510's corner case, is the model's reading (log 23). -/
def Obligations.LossSettings : Prop :=
  ∀ (s : State) (fam : Nat) (f : Family) (v : Fin 8) (x : F32) (ty : LossType),
    Guarded (.lossSetCutoff fam v x) s ∧ Guarded (.lossSetType fam v ty) s ∧
    (s.mode = .stop → familyOf fam = some f →
    (∃ F, exec (.lossSetCutoff fam v x) s = .next (completed (s.setVoice f v { s.voice f v with loss := F }) F.fc) ∧
      CutoffSet s.cfg.val f (s.voice f v).loss x F) ∧
    (f ≠ .reed → ∃ F, exec (.lossSetType fam v ty) s =
        .next (completed (s.setVoice f v { s.voice f v with loss := F }) 0#32) ∧
      TypeSet s.cfg.val (s.voice f v).loss ty F) ∧
    (f = .reed → exec (.lossSetType fam v ty) s = .next (refused s .illegalArg)))

/-- LOSS_PROCESS is one step of the transposed direct form II (R502, R512). -/
def Obligations.LossProcess : Prop :=
  ∀ (s : State) (fam : Nat) (f : Family) (v : Fin 8) (x : F32),
    Guarded (.lossProcess fam v x) s ∧
    (s.mode = .stop → familyOf fam = some f →
    let F := (s.voice f v).loss
    let y := Fp.add (Fp.mul F.b0 x) F.s1
    let s1 := Fp.sub (Fp.mul F.b1 x) (Fp.mul F.a1 y)
    (F.ty = .lpf1 → exec (.lossProcess fam v x) s = .next
      (completed (s.setVoice f v { s.voice f v with loss := { F with s1 := s1 } }) y)) ∧
    (F.ty = .lpf2 → exec (.lossProcess fam v x) s = .next
      (completed (s.setVoice f v { s.voice f v with
        loss := { F with s1 := Fp.add s1 F.s2, s2 := Fp.sub (Fp.mul F.b2 x) (Fp.mul F.a2 y) } }) y)))

/-- LOSS_PHASEDELAY and DISP_PHASEDELAY answer the phase delay of the filter and change no state; a frequency that is not
above 0, or a bypassed chain, gives +0.0 (R503, R513, R552, R563). -/
def Obligations.PhaseDelays : Prop :=
  ∀ (s : State) (fam : Nat) (f : Family) (v : Fin 8) (x : F32),
    Guarded (.lossPhaseDelay fam v x) s ∧ Guarded (.dispPhaseDelay fam v x) s ∧
    (s.mode = .stop → familyOf fam = some f →
    let F := (s.voice f v).loss
    let D := (s.voice f v).disp
    let w := angular s.fs x
    let w2 := Fp.mul Fp.two w
    let fns := s.cfg.val.fns
    let c := Fp.cos32 fns w
    let sn := Fp.sin32 fns w
    let c2 := Fp.cos32 fns w2
    let s2 := Fp.sin32 fns w2
    (Fp.lt Fp.zero x = false →
      exec (.lossPhaseDelay fam v x) s = .next (completed s Fp.zero) ∧
      exec (.dispPhaseDelay fam v x) s = .next (completed s Fp.zero)) ∧
    (Fp.lt Fp.zero x = true → F.ty = .lpf1 → exec (.lossPhaseDelay fam v x) s = .next (completed s
      (phaseOver fns (Fp.add F.b0 (Fp.mul F.b1 c)) (Fp.neg (Fp.mul F.b1 sn))
        (Fp.add Fp.one (Fp.mul F.a1 c)) (Fp.neg (Fp.mul F.a1 sn)) w))) ∧
    (Fp.lt Fp.zero x = true → F.ty = .lpf2 → exec (.lossPhaseDelay fam v x) s = .next (completed s
      (phaseOver fns (Fp.add (Fp.add F.b0 (Fp.mul F.b1 c)) (Fp.mul F.b2 c2))
        (Fp.neg (Fp.add (Fp.mul F.b1 sn) (Fp.mul F.b2 s2)))
        (Fp.add (Fp.add Fp.one (Fp.mul F.a1 c)) (Fp.mul F.a2 c2))
        (Fp.neg (Fp.add (Fp.mul F.a1 sn) (Fp.mul F.a2 s2))) w))) ∧
    (D.bypass = true → exec (.dispPhaseDelay fam v x) s = .next (completed s Fp.zero)) ∧
    (Fp.lt Fp.zero x = true → D.bypass = false → exec (.dispPhaseDelay fam v x) s = .next (completed s
      (Fp.mul (Fp.ofInt D.m) (phaseOver fns (Fp.add D.alpha c) (Fp.neg sn)
        (Fp.add Fp.one (Fp.mul D.alpha c)) (Fp.neg (Fp.mul D.alpha sn)) w)))))

/-- DISP_SETGD and DISP_SETSTAGES set the group delay or the stage count, recompute alpha and bypass, keep the stage states,
and answer alpha; 5 to 7 stages are refused (R553, R554, R560, R561). That alpha is R553's quotient for a d whose 1.0 + d, and not
whose 1.0 − d, rounds to 1.0, is the model's reading against R560's corner case (log 21). -/
def Obligations.DispersionSettings : Prop :=
  ∀ (s : State) (fam : Nat) (f : Family) (v : Fin 8) (g : F32) (m : Nat),
    Guarded (.dispSetGD fam v g) s ∧ Guarded (.dispSetStages fam v m) s ∧
    (s.mode = .stop → familyOf fam = some f →
    let D := (s.voice f v).disp
    (∃ E, exec (.dispSetGD fam v g) s = .next (completed (s.setVoice f v { s.voice f v with disp := E }) E.alpha) ∧
      DispersionSet D D.m (keptGroupDelay g) E) ∧
    (m ≤ 4 → ∃ E, exec (.dispSetStages fam v m) s =
        .next (completed (s.setVoice f v { s.voice f v with disp := E }) E.alpha) ∧
      DispersionSet D m D.gd E) ∧
    (5 ≤ m → exec (.dispSetStages fam v m) s = .next (refused s .illegalArg)))

/-- DISP_PROCESS passes the input bit for bit in bypass, and else through the M stages in order, each with its own cell; the
cells from M on are kept (R551, R562). M ≤ 4 is an invariant (StepKeepsParameters). -/
def Obligations.DispProcess : Prop :=
  ∀ (s : State) (fam : Nat) (f : Family) (v : Fin 8) (x : F32),
    Guarded (.dispProcess fam v x) s ∧
    (s.mode = .stop → familyOf fam = some f →
    let D := (s.voice f v).disp
    (D.bypass = true → exec (.dispProcess fam v x) s = .next (completed s x)) ∧
    (D.bypass = false → D.m ≤ 4 → ∃ (vs : Vector F32 4) (xs : Nat → F32),
      exec (.dispProcess fam v x) s =
        .next (completed (s.setVoice f v { s.voice f v with disp := { D with vs := vs } }) (xs D.m)) ∧
      xs 0 = x ∧
      ∀ k : Fin 4,
        (k.val < D.m → vs[k] = Fp.sub (xs k) (Fp.mul D.alpha D.vs[k]) ∧
          xs (k + 1) = Fp.add D.vs[k] (Fp.mul D.alpha vs[k])) ∧
        (D.m ≤ k.val → vs[k] = D.vs[k])))

/-- NOISE_SEED stores the seed, NOISE_NEXT advances the generator and answers f32(sext_32(s)) · 2^-31; both act on String
voices only (R600, R601, R602). -/
def Obligations.NoiseCommands : Prop :=
  ∀ (s : State) (fam : Nat) (v : Fin 8) (seed : Word),
    Guarded (.noiseSeed fam v seed) s ∧ Guarded (.noiseNext fam v) s ∧
    (s.mode = .stop →
    let n := BitVec.ofNat 32 ((s.voice .string v).noise.toNat * 1664525 + 1013904223)
    exec (.noiseSeed 0 v seed) s =
      .next (completed (s.setVoice .string v { s.voice .string v with noise := seed }) 0#32) ∧
    exec (.noiseNext 0 v) s = .next (completed (s.setVoice .string v { s.voice .string v with noise := n })
      (Fp.mul (Fp.ofInt n.toInt) 0x30000000#32)) ∧
    (fam ≠ 0 → exec (.noiseSeed fam v seed) s = .next (refused s .illegalArg) ∧
      exec (.noiseNext fam v) s = .next (refused s .illegalArg)))

/-- The noise output lies in [−1.0, 1.0], and it is exactly 1.0 for the 64 greatest signed states and exactly −1.0 for the
least (R600). -/
def Obligations.NoiseRange : Prop :=
  ∀ n : Word,
    Fp.le Fp.minusOne (nzOutput n) = true ∧ Fp.le (nzOutput n) Fp.one = true ∧
    (0x7FFFFFC0 ≤ n.toNat → n.toNat ≤ 0x7FFFFFFF → nzOutput n = Fp.one) ∧
    (n = 0x80000000#32 → nzOutput n = Fp.minusOne)

/-! ### Arithmetic -/

/-- Every operator is the IEEE binary32 operation: on finite operands its result is the exact result rounded once, to nearest
with ties to even (R12), and so is f32(n) of an integer (R13). The sign of a zero sum is that of two equal signs and else
+; a product or quotient has the product of the signs. -/
def Obligations.ArithmeticRoundsOnce : Prop :=
  (∀ x y : F32, finite x → finite y →
    RoundsTo (value x + value y) (Fp.add x y) ∧
    RoundsTo (value x - value y) (Fp.sub x y) ∧
    RoundsTo (value x * value y) (Fp.mul x y) ∧
    (value y ≠ 0 → RoundsTo (value x / value y) (Fp.div x y)) ∧
    (value x + value y = 0 → Fp.isNeg (Fp.add x y) = (Fp.isNeg x && Fp.isNeg y)) ∧
    (value x - value y = 0 → Fp.isNeg (Fp.sub x y) = (Fp.isNeg x && !Fp.isNeg y)) ∧
    Fp.isNeg (Fp.mul x y) = (Fp.isNeg x != Fp.isNeg y) ∧
    (value y ≠ 0 → Fp.isNeg (Fp.div x y) = (Fp.isNeg x != Fp.isNeg y))) ∧
  (∀ n : Int, RoundsTo (n : ℚ) (Fp.ofInt n)) ∧ Fp.ofInt 0 = Fp.zero

/-- The laws that R16 lets a proof assume of the configuration functions, whichever the configuration gives. That the 0 is
+0.0, and that TANH32 is odd at NaNs too, as bits, is the model's reading (log 8). -/
def Obligations.ConfigurationLaws : Prop :=
  ∀ fns : Config.Functions,
    Fp.pow2 fns Fp.zero = Fp.one ∧ Fp.exp32 fns Fp.zero = Fp.one ∧
    (∀ x, Fp.tanh32 fns (Fp.neg x) = Fp.neg (Fp.tanh32 fns x)) ∧
    (∀ x, Fp.isNaN x = false →
      Fp.le Fp.minusOne (Fp.tanh32 fns x) = true ∧ Fp.le (Fp.tanh32 fns x) Fp.one = true) ∧
    ∀ y x, Fp.isNaN y = false → Fp.isNaN x = false →
      Fp.le (Fp.neg Fp.pi32) (Fp.atan2 fns y x) = true ∧ Fp.le (Fp.atan2 fns y x) Fp.pi32 = true

/-- IEEE special operands (R12): NaN in, NaN out; ∞ − ∞, 0 · ∞, 0/0 and ∞/∞ are NaNs; ∞ with a finite operand is what its limit is,
with the sign of the rule; a non-zero number over a zero is ∞ with the product of the signs; an exact zero sum of opposite
signs is +0.0; unary minus and |x| act on the sign bit alone. FLOOR and int are exact, and < and ≤ agree with the numbers, the
infinities at the two ends (R13). max, min and clamp, of f32 and of integers (R14). And the special cases of the default
configuration functions (R16), which log 8 takes from IEEE 754-2019. -/
def Obligations.SpecialOperands : Prop :=
  (∀ x y : F32,
    (Fp.isNaN x = true ∨ Fp.isNaN y = true →
      Fp.isNaN (Fp.add x y) = true ∧ Fp.isNaN (Fp.sub x y) = true ∧ Fp.isNaN (Fp.mul x y) = true ∧
      Fp.isNaN (Fp.div x y) = true ∧ Fp.lt x y = false ∧ Fp.le x y = false) ∧
    (Fp.isInf x = true → Fp.isNaN (Fp.sub x x) = true ∧ Fp.isNaN (Fp.div x x) = true ∧ Fp.add x x = x) ∧
    (Fp.isInf x = true → Fp.isInf y = true →
      Fp.isNaN (Fp.add x y) = (Fp.isNeg x != Fp.isNeg y) ∧ Fp.isNaN (Fp.sub x y) = (Fp.isNeg x == Fp.isNeg y) ∧
      (Fp.isNeg x ≠ Fp.isNeg y → Fp.sub x y = x) ∧ Fp.isNaN (Fp.div x y) = true) ∧
    (Fp.isInf x = true → finite y →
      Fp.add x y = x ∧ Fp.add y x = x ∧ Fp.sub x y = x ∧ Fp.sub y x = Fp.neg x ∧
      Fp.isInf (Fp.div x y) = true ∧ Fp.isNeg (Fp.div x y) = (Fp.isNeg x != Fp.isNeg y) ∧
      Fp.isZero (Fp.div y x) = true ∧ Fp.isNeg (Fp.div y x) = (Fp.isNeg x != Fp.isNeg y)) ∧
    (Fp.isInf x = true → Fp.isNaN y = false → Fp.isZero y = false →
      Fp.isInf (Fp.mul x y) = true ∧ Fp.isNeg (Fp.mul x y) = (Fp.isNeg x != Fp.isNeg y) ∧ Fp.mul y x = Fp.mul x y) ∧
    (Fp.isInf x = true → Fp.isZero y = true → Fp.isNaN (Fp.mul x y) = true ∧ Fp.isNaN (Fp.mul y x) = true) ∧
    (Fp.isZero x = true → Fp.isZero y = true → Fp.isNaN (Fp.div x y) = true) ∧
    (Fp.isNaN x = false → Fp.isZero x = false → Fp.isZero y = true →
      Fp.isInf (Fp.div x y) = true ∧ Fp.isNeg (Fp.div x y) = (Fp.isNeg x != Fp.isNeg y)) ∧
    (finite x → Fp.sub x x = Fp.zero) ∧
    (Fp.neg x).toNat % 2 ^ 31 = x.toNat % 2 ^ 31 ∧ Fp.isNeg (Fp.neg x) = !Fp.isNeg x ∧
    (Fp.abs x).toNat = x.toNat % 2 ^ 31 ∧
    (Fp.isNaN x = true → Fp.isNaN (Fp.floor x) = true) ∧ (Fp.isInf x = true → Fp.floor x = x) ∧
    (finite x → finite (Fp.floor x) ∧ value (Fp.floor x) = (⌊value x⌋ : ℤ) ∧ Fp.isNeg (Fp.floor x) = Fp.isNeg x) ∧
    (finite x → ∀ n : Int, value x = n → Fp.toInt x = n) ∧
    (finite x → finite y → (Fp.lt x y = true ↔ value x < value y) ∧ (Fp.le x y = true ↔ value x ≤ value y)) ∧
    (Fp.isNaN x = false → Fp.isInf y = true →
      Fp.lt x y = (!Fp.isNeg y && x != y) ∧ Fp.le x y = (!Fp.isNeg y || x == y) ∧
      Fp.lt y x = (Fp.isNeg y && x != y) ∧ Fp.le y x = (Fp.isNeg y || x == y)) ∧
    (let c := Config.Functions.correctlyRounded
     (Fp.isNaN x = true ∨ Fp.isInf x = true → Fp.isNaN (Fp.tan32 c x) = true ∧ Fp.isNaN (Fp.sin32 c x) = true ∧
       Fp.isNaN (Fp.cos32 c x) = true) ∧
     (Fp.isNaN x = true → Fp.isNaN (Fp.exp32 c x) = true ∧ Fp.isNaN (Fp.pow2 c x) = true ∧
       Fp.isNaN (Fp.pow10 c x) = true ∧ Fp.isNaN (Fp.tanh32 c x) = true) ∧
     (Fp.isNaN x = true ∨ Fp.isNaN y = true → Fp.isNaN (Fp.atan2 c y x) = true) ∧
     (Fp.isZero x = true → Fp.tan32 c x = x ∧ Fp.sin32 c x = x ∧ Fp.cos32 c x = Fp.one ∧ Fp.exp32 c x = Fp.one ∧
       Fp.pow2 c x = Fp.one ∧ Fp.pow10 c x = Fp.one ∧ Fp.tanh32 c x = x) ∧
     (Fp.isNaN y = false → Fp.isNaN x = false →
       (Fp.isZero y = true ∨ Fp.isZero x = true ∨ Fp.isInf y = true ∨ Fp.isInf x = true →
         Fp.atan2 c y x = if Fp.isNeg y then Fp.neg (Fp.atan2 c (Fp.abs y) x) else Fp.atan2 c (Fp.abs y) x) ∧
       (Fp.isZero y = true ∨ (finite y ∧ Fp.isInf x = true) →
         Fp.atan2 c (Fp.abs y) x = if Fp.isNeg x then Fp.pi32 else Fp.zero) ∧
       (finite y → Fp.isZero y = false → Fp.isZero x = true → Fp.atan2 c (Fp.abs y) x = 0x3FC90FDB#32) ∧
       (Fp.isInf y = true → Fp.atan2 c (Fp.abs y) x =
         if Fp.isInf x then (if Fp.isNeg x then 0x4016CBE4#32 else 0x3F490FDB#32) else 0x3FC90FDB#32)) ∧
     (Fp.isInf x = true → Fp.isNeg x = false → Fp.exp32 c x = x ∧ Fp.pow2 c x = x ∧ Fp.pow10 c x = x ∧
       Fp.tanh32 c x = Fp.one) ∧
     (Fp.isInf x = true → Fp.isNeg x = true → Fp.exp32 c x = Fp.zero ∧ Fp.pow2 c x = Fp.zero ∧
       Fp.pow10 c x = Fp.zero ∧ Fp.tanh32 c x = Fp.minusOne))) ∧
  (∀ x lo hi : F32,
    (Fp.lt x lo = true → Fp.max x lo = lo) ∧ (Fp.lt x lo = false → Fp.max x lo = x) ∧
    (Fp.lt hi x = true → Fp.min x hi = hi) ∧ (Fp.lt hi x = false → Fp.min x hi = x) ∧
    (Fp.isNaN x = true → Fp.max x lo = x ∧ Fp.min x hi = x ∧ Fp.clamp x lo hi = x) ∧
    (Fp.isNaN x = false → Fp.lt hi lo = true → Fp.clamp x lo hi = hi) ∧
    (Fp.isNaN x = false → Fp.le lo hi = true →
      Fp.le lo (Fp.clamp x lo hi) = true ∧ Fp.le (Fp.clamp x lo hi) hi = true ∧
      (Fp.lt x lo = true → Fp.clamp x lo hi = lo) ∧ (Fp.lt hi x = true → Fp.clamp x lo hi = hi) ∧
      (Fp.le lo x = true → Fp.le x hi = true → Fp.clamp x lo hi = x))) ∧
  ∀ n lo hi : Int, lo ≤ hi → Fp.clampInt n lo hi = max lo (min n hi)

/-! ### The ENGINE -/

/-- The block tick and the drain (R740, R741, R820). A tick enters a pending stop; in STOP mode it emits a block of zeros and
changes nothing else; in RUN mode the block begins. SWAP(g) moves one dirty word to SNAP and zeroes it; after the fourth comes
the least slot whose bit is set. -/
def Obligations.BlockTickAndDrain : Prop :=
  ∀ s : State,
    let zeros := List.replicate s.cfg.val.block Fp.zero
    (s.phase = .idle → s.stopReq = true ∨ s.mode = .stop →
      s.engineStep = { s with mode := .stop, stopReq := false, emitted := s.emitted ++ [⟨zeros, zeros⟩] }) ∧
    (s.phase = .idle → s.stopReq = false → s.mode = .run → s.engineStep = { s with phase := .swap 0 }) ∧
    ∀ g : Fin 4, s.phase = .swap g → ∃ snap dirty ph,
      s.engineStep = { s with snap := snap, dirty := dirty, phase := ph } ∧
      snap[g] = s.dirty[g] ∧ dirty[g] = 0#32 ∧
      (∀ h : Fin 4, h ≠ g → snap[h] = s.snap[h] ∧ dirty[h] = s.dirty[h]) ∧
      (∀ h : g.val < 3, ph = .swap ⟨g.val + 1, by omega⟩) ∧ (g.val = 3 → NextCallback snap 0 ph)

/-- CALLBACK(s) reads RAW now, writes LIVE[s] by R811's formula, clears the slot's SNAP bit, goes to the next set bit, and has
the effect of the slot's class on its family; no other family's voices or coefficients change (R741, R811, R821). How an
integer stands for an f32 and a fraction for a stage count, and that an ENV row of String sets no coefficients, is the
model's reading (log 15, log 10). -/
def Obligations.CallbackStep : Prop :=
  ∀ (s : State) (slot : Fin 128) (row : Config.ParamRow), s.phase = .callback slot →
    s.cfg.val.table[slot.val]? = some row → s.live.length = s.cfg.val.table.length →
    let t := s.engineStep
    let f := row.fam
    let new := liveValue row (s.rawAt slot)
    let now := liveByClass s.cfg.val.table t.live
    t = { s with
      snap := t.snap, live := t.live, phase := t.phase, voices := t.voices, envReed := t.envReed,
      envBow := t.envBow } ∧
    t.live[slot.val]? = some new ∧ (∀ j : Nat, j ≠ slot.val → t.live[j]? = s.live[j]?) ∧
    slotBit t.snap slot = false ∧ (∀ u : Fin 128, u ≠ slot → slotBit t.snap u = slotBit s.snap u) ∧
    NextCallback t.snap (slot.val + 1) t.phase ∧
    (∀ g v, g ≠ f → t.voice g v = s.voice g v) ∧
    ((∀ role, row.cb ≠ .env role) → t.envReed = s.envReed ∧ t.envBow = s.envBow) ∧
    (row.cb = .live → t.voices = s.voices) ∧
    (row.cb = .loss → ∀ v, ∃ F, t.voice f v = { s.voice f v with loss := F } ∧
      CutoffSet s.cfg.val f (s.voice f v).loss (f32Of new) F) ∧
    (row.cb = .lossType → ∀ v, ∃ F, t.voice f v = { s.voice f v with loss := F } ∧
      TypeSet s.cfg.val (s.voice f v).loss (lossTypeOf new.asInt) F ∧
      (new = .int 0 → F.ty = .lpf1) ∧ (new = .int 1 → F.ty = .lpf2)) ∧
    (∀ role, row.cb = .disp role → ∃ m, StagesOf (now (.disp .stages) f) m ∧
      ∀ v, ∃ E, t.voice f v = { s.voice f v with disp := E } ∧ DispersionSet (s.voice f v).disp m
        (keptGroupDelay (f32Of (now (.disp .groupDelay) f))) E) ∧
    (∀ role, row.cb = .env role → t.voices = s.voices ∧
      (let k : EnvCoefs :=
        ⟨envelopeCoef s.cfg.val (f32Of (now (.env .attack) f)), envelopeCoef s.cfg.val (f32Of (now (.env .release) f))⟩
       (f = .string → t.envReed = s.envReed ∧ t.envBow = s.envBow) ∧
       (f = .reed → t.envReed = k ∧ t.envBow = s.envBow) ∧ (f = .bow → t.envBow = k ∧ t.envReed = s.envReed)))

/-- APPLY does the instrument request, then the force-stop, then the note requests in ascending note order, and clears all of
them; it changes only voices, lines, pools and these requests (R742). -/
def Obligations.ApplyStep : Prop :=
  ∀ s : State, s.phase = .apply →
    let t := s.engineStep
    let s1 := if s.instrReq.valid then
      ({ s with instrReq := ⟨false, s.instrReq.fam⟩ } : State).switchTo s.instrReq.fam else s
    let s2 := if s.fsaReq then ({ s1 with fsaReq := false } : State).psForceStopAll s1.active else s1
    t = { applyRequests s.req (List.finRange 128) { s2 with req := Vector.replicate 128 .none } with
      phase := .render } ∧
    t = { s with
      voices := t.voices, delay := t.delay, alloc := t.alloc, allocFail := t.allocFail, pools := t.pools,
      active := if s.instrReq.valid then s.instrReq.fam else s.active
      req := Vector.replicate 128 .none, instrReq := ⟨false, s.instrReq.fam⟩, fsaReq := false, phase := .render }

/-- RENDER emits one block: silence when no voice is used, else the used voices' blocks added in used order; aux is zeros. The
voices and the lines are those that these blocks leave, one after another. Voices that report silent leave used. Only the active family's voices and pool, and the lines, change (R743, R626). -/
def Obligations.RenderStep : Prop :=
  ∀ s : State, s.phase = .render → PoolsPartition s →
    let t := s.engineStep
    let f := s.active
    let zeros := List.replicate s.cfg.val.block Fp.zero
    ∃ main silent,
      t = { s with
        voices := t.voices, delay := t.delay, pools := t.pools, phase := .idle,
        emitted := s.emitted ++ [⟨main, zeros⟩] } ∧
      t.voices = (rendered f (s.pool f).used s).voices ∧ t.delay = (rendered f (s.pool f).used s).delay ∧
      main.length = s.cfg.val.block ∧
      ((s.pool f).used = [] → main = zeros ∧ t.voices = s.voices ∧ t.delay = s.delay) ∧
      (∀ ys rest, voiceBlocks f (s.pool f).used s = ys :: rest → main = rest.foldl (List.zipWith Fp.add) ys) ∧
      (∀ v, v ∈ silent ↔ v ∈ (s.pool f).used ∧ (t.voice f v).sustaining = false ∧
        Fp.lt (t.voice f v).peak (silenceThreshold s.cfg.val f) = true) ∧
      t.pool f = removeSilent silent (s.pool f) ∧
      (∀ v, v ∉ (s.pool f).used → t.voice f v = s.voice f v) ∧
      ∀ g, g ≠ f → t.pool g = s.pool g ∧ ∀ v, t.voice g v = s.voice g v

/-- Emitted blocks are history: a step adds at most one block, of B main and B aux samples, and only the ENGINE's steps add
any; a HOST step, log 2's default one too, and the reset emit nothing (R745, R950, R954). -/
def Obligations.EmissionHistory : Prop :=
  ∀ s t : State, step s = .next t →
    (t.emitted = s.emitted ∨ ∃ b : OutBlock, t.emitted = s.emitted ++ [b] ∧
      b.main.length = s.cfg.val.block ∧ b.aux = List.replicate s.cfg.val.block Fp.zero ∧
      (s.phase = .render ∨ (s.phase = .idle ∧ t.mode = .stop))) ∧
    (HostMoves s ∨ s.sched.head? = some .reset → t.emitted = s.emitted)

/-- A voice with a missing line outputs +0.0 and changes nothing, in every family (R623); the usable voice's steps are the
signal flows of R620, R621 and R622, each reading its lines before it pushes. -/
def Obligations.VoiceSteps : Prop :=
  ∀ (E : VoiceEnv) (V W : Voice) (d : DelayPool) (out : F32),
    (∀ f, (∃ k ∈ lineSlots f, V.line k = none) → voiceStep E f V d = ⟨Fp.zero, V, d⟩) ∧
    (∀ l, V.line0 = some l → FilteredBy V (d.getLast E.cfg.cap l) W out →
      (V.n < V.burstLen →
        let n := nzAdvance V.noise
        let click := if V.n < V.p then Fp.one else Fp.minusOne
        let c := liveF E .strColor
        let e := Fp.mul V.amp (Fp.add (Fp.mul (Fp.sub Fp.one c) click) (Fp.mul c (nzOutput n)))
        voiceStep E .string V d = ⟨d.getLast E.cfg.cap l, { W with noise := n, n := V.n + 1 },
          d.push E.cfg.cap l (Fp.add (Fp.mul V.decay out) e)⟩) ∧
      (V.burstLen ≤ V.n → voiceStep E .string V d = ⟨d.getLast E.cfg.cap l, W,
          d.push E.cfg.cap l (Fp.add (Fp.mul V.decay out) Fp.zero)⟩)) ∧
    (∀ l, V.line0 = some l → FilteredBy V (d.getLast E.cfg.cap l) W out →
      let target := if V.sustaining then Fp.mul (liveF E .reedPressure) V.amp else Fp.zero
      let pm := envelopeStep V.env target E.envReed
      let delta := Fp.sub pm (Fp.neg (Fp.mul (liveF E .reedLoopGain) out))
      let off := if Fp.lt delta Fp.zero then liveF E .reedInhaleOffset else liveF E .reedActiveOffset
      let r := Fp.clamp (Fp.add off (Fp.mul (liveF E .reedSlope) (Fp.tanh32 E.cfg.fns delta))) Fp.minusOne Fp.one
      voiceStep E .reed V d = ⟨d.getLast E.cfg.cap l, { W with env := pm },
        d.push E.cfg.cap l (Fp.sub pm (Fp.mul r delta))⟩) ∧
    (∀ nut brg, V.line0 = some nut → V.line1 = some brg → FilteredBy V (d.getLast E.cfg.cap brg) W out →
      let target := if V.sustaining then Fp.mul (liveF E .bowSpeed) V.amp else Fp.zero
      let vb := envelopeStep V.env target E.envBow
      let bref := Fp.neg (Fp.mul (liveF E .bowLoopGain) out)
      let nref := Fp.neg (d.getLast E.cfg.cap nut)
      let dv := Fp.sub vb (Fp.add bref nref)
      let a := Fp.add (Fp.abs (Fp.add (Fp.mul dv (liveF E .bowSlope)) (liveF E .bowOffset))) Fp.threeQuarters
      let q := Fp.div Fp.one (Fp.mul (Fp.mul a a) (Fp.mul a a))
      let nv := Fp.mul dv (Fp.clamp q (liveF E .bowReflMin) (liveF E .bowReflMax))
      voiceStep E .bow V d = ⟨d.getLast E.cfg.cap brg, { W with env := vb },
        (d.push E.cfg.cap nut (Fp.add bref nv)).push E.cfg.cap brg (Fp.add nref nv)⟩)

/-- VoiceNoteOn (R611, R612, R613, R614): the note's fields, the resets, the cleared lines, and the family's tail; a line
delay is never below 1, and a voice with a missing line sets no delay. That a Bow voice with one line and one NONE still
clears the line it holds is the model's reading of R611's pseudocode against its prose (log 19). -/
def Obligations.VoiceNoteOn : Prop :=
  ∀ (E : VoiceEnv) (f : Family) (ch : Fin 16) (note vel : Fin 128) (V : Voice) (d : DelayPool),
    let r := voiceNoteOn E f ch note vel V d
    let loss : Loss := { V.loss with s1 := Fp.zero, s2 := Fp.zero }
    let disp : Dispersion := { V.disp with vs := Vector.replicate 4 Fp.zero }
    let freq := Fp.mul Fp.f440 (Fp.pow2 E.cfg.fns (Fp.div (Fp.ofInt ((note.val : Int) - 69)) Fp.twelve))
    let loop := Fp.div (Fp.ofInt E.cfg.fs) freq
    let rem := Fp.sub loop (Fp.add (lfPhaseDelay E.cfg loss freq) (dpPhaseDelay E.cfg disp freq))
    let nf := Fp.mul (liveF E .bowPosition) rem
    let nutL := if Fp.isNaN nf then 1 else max 1 (Fp.toInt (Fp.floor nf))
    let asked := if f = .bow then Fp.sub rem (Fp.ofInt nutL) else rem
    let split := tfSplit { V.tune with v := Fp.zero } asked
    let cleared := fun (d : DelayPool) (l : Option Nat) => match l with
      | some l => d.clear E.cfg.cap l
      | none => d
    r.1 = { V with
      note := note, ch := ch, vel := vel, sustaining := true, peak := Fp.zero,
      amp := Fp.div (Fp.ofInt (vel.val : Int)) Fp.f127, tune := split.1, loss := loss, disp := disp,
      env := if f = .string then V.env else Fp.zero, n := if f = .string then 0 else V.n,
      decay := r.1.decay, noise := r.1.noise, burstLen := r.1.burstLen, p := r.1.p } ∧
    (f ≠ .string → r.1.decay = V.decay ∧ r.1.noise = V.noise ∧ r.1.burstLen = V.burstLen ∧ r.1.p = V.p) ∧
    (f = .string →
      let ms := liveF E .strDecayMs
      r.1.noise = BitVec.ofInt 32 (liveI E .strNoiseSeed) ∧
      (Fp.lt Fp.zero ms = false → r.1.decay = Fp.zero) ∧
      (Fp.lt Fp.zero ms = true → r.1.decay = Fp.min
        (Fp.pow10 E.cfg.fns (Fp.neg (Fp.div loop (Fp.div (Fp.mul (Fp.ofInt E.cfg.fs) ms) Fp.thousand)))) Fp.decayMax) ∧
      (V.line0 = none → r.2 = d ∧ r.1.burstLen = 0 ∧ r.1.p = 0) ∧
      ∀ l, V.line0 = some l →
        r.2 = (d.clear E.cfg.cap l).setDelay E.cfg.cap l (max 1 split.2) ∧ r.1.burstLen = (r.2.line l).len ∧
        (r.1.p : Int) = Fp.clampInt (Fp.toInt (Fp.floor
          (Fp.mul (liveF E .strPluckPos) (Fp.ofInt (r.1.burstLen : Int))))) 0 r.1.burstLen) ∧
    (f = .reed → (V.line0 = none → r.2 = d) ∧
      ∀ l, V.line0 = some l → r.2 = (d.clear E.cfg.cap l).setDelay E.cfg.cap l (max 1 split.2)) ∧
    (f = .bow →
      (V.line0 = none ∨ V.line1 = none → r.2 = cleared (cleared d V.line0) V.line1) ∧
      ∀ nut brg, V.line0 = some nut → V.line1 = some brg →
        r.2 = (((d.clear E.cfg.cap nut).clear E.cfg.cap brg).setDelay E.cfg.cap nut nutL).setDelay E.cfg.cap brg
          (max 1 split.2))

/-- A block of a voice is B of its steps, one after another, and its peak is the greatest magnitude among them, or +0.0; a
NaN does not raise it. NoteOff's bit is what lets a voice be silent: a sustaining voice never is (R626). -/
def Obligations.VoiceBlockPeak : Prop :=
  ∀ (E : VoiceEnv) (f : Family) (V : Voice) (d : DelayPool),
    let b := voiceBlock E f V d
    let r := stepsOf E f E.cfg.block V d
    b.samples = r.1 ∧ b.voice = { r.2.1 with peak := b.voice.peak } ∧ b.delay = r.2.2 ∧
    b.samples.length = E.cfg.block ∧
    (∀ y ∈ b.samples, Fp.isNaN y = false → Fp.le (Fp.abs y) b.voice.peak = true) ∧
    (b.voice.peak = Fp.zero ∨ ∃ y ∈ b.samples, Fp.isNaN y = false ∧ b.voice.peak = Fp.abs y) ∧
    b.voice.sustaining = V.sustaining ∧ (V.sustaining = true → reportsSilent E.cfg f b.voice = false)

/-- PS_NoteOn pops an unused voice, or steals the one at rr; PS_NoteOff releases every used voice with the note, on any
channel, and no other; PS_ForceStopAll frees every voice of its family (R710, R711, R712, R624). -/
def Obligations.VoiceManager : Prop :=
  ∀ (s : State) (f : Family) (ch : Fin 16) (note vel : Fin 128),
    (∀ v rest, (s.pool f).unused = v :: rest → s.psNoteOn f ch note vel =
      started (s.setPool f ⟨(s.pool f).used ++ [v], rest, (s.pool f).rr⟩) f v ch note vel) ∧
    ((s.pool f).unused = [] → s.psNoteOn f ch note vel =
      started (s.setPool f ⟨(s.pool f).used, [], Fin.ofNat 8 ((s.pool f).rr + 1)⟩) f (s.pool f).rr ch note vel) ∧
    (let t := s.psNoteOff f note
     t = { s with voices := t.voices } ∧ (∀ g v, g ≠ f → t.voice g v = s.voice g v) ∧
     ∀ v, (v ∈ (s.pool f).used ∧ (s.voice f v).note = note →
         t.voice f v = { s.voice f v with sustaining := false }) ∧
       (¬(v ∈ (s.pool f).used ∧ (s.voice f v).note = note) → t.voice f v = s.voice f v)) ∧
    (let t := s.psForceStopAll f
     t = { s with voices := t.voices, pools := t.pools } ∧ t.pool f = ⟨[], [0, 1, 2, 3, 4, 5, 6, 7], 0⟩ ∧
     (∀ v, t.voice f v = { s.voice f v with sustaining := false }) ∧
     ∀ g, g ≠ f → t.pool g = s.pool g ∧ ∀ v, t.voice g v = s.voice g v)

/-- The removal loop keeps the voices that are not silent in used, moves the silent ones to unused, loses and doubles none,
and leaves rr. Its order: the first silent voice of used goes on top of unused, the last element of used takes its place, and
the loop goes on from there. And the worked example of R720. -/
def Obligations.RemovalLoop : Prop :=
  (∀ (silent : List (Fin 8)) (P : PolySynth), P.used.Nodup →
    let Q := removeSilent silent P
    Q.rr = P.rr ∧ Q.used.Perm (P.used.filter fun v => !silent.contains v) ∧
    ∃ freed, Q.unused = freed ++ P.unused ∧ freed.Perm (P.used.filter fun v => silent.contains v)) ∧
  (∀ (silent pre mid unused : List (Fin 8)) (v w rr : Fin 8), (∀ u ∈ pre, u ∉ silent) →
    removeSilent silent ⟨pre, unused, rr⟩ = ⟨pre, unused, rr⟩ ∧
    (v ∈ silent → removeSilent silent ⟨pre ++ [v], unused, rr⟩ = ⟨pre, v :: unused, rr⟩ ∧
      removeSilent silent ⟨pre ++ v :: (mid ++ [w]), unused, rr⟩ =
        removeSilent silent ⟨pre ++ w :: mid, v :: unused, rr⟩)) ∧
  removeSilent [0, 2] ⟨[0, 1, 2], [3, 4, 5, 6, 7], 0⟩ = ⟨[1], [2, 0, 3, 4, 5, 6, 7], 0⟩

/-- The instrument switch frees the old family and takes its lines by Release, checks the new family out by Checkout (their
effects: ReleaseUndoesCheckout) and records a short pool; the voices of both change in nothing else but sustaining. Naming the active family does nothing. From reset with the defaults, Reed voice v gets line v and Bow voice v gets lines 2v
and 2v + 1, and nothing fails (R422, R713). The order of the lines
after the HOST has released some is that of the stack (log 22). -/
def Obligations.InstrumentSwitch : Prop :=
  (∀ (s : State) (r : Family), r = s.active → s.switchTo r = s) ∧
  (∀ (s : State) (r : Family), r ≠ s.active →
    let t := s.switchTo r
    t = { s with
      alloc := t.alloc, allocFail := t.allocFail, voices := t.voices, pools := t.pools, active := r } ∧
    t.pool s.active = ⟨[], [0, 1, 2, 3, 4, 5, 6, 7], 0⟩ ∧ (∀ g, g ≠ s.active → t.pool g = s.pool g) ∧
    (let h := release s.active
        ⟨s.alloc, Vector.ofFn fun v => { s.voice s.active v with sustaining := false }, s.allocFail⟩
     let c := checkout r ⟨h.alloc, s.voices.get r, h.allocFail⟩
     t.voices.get s.active = h.bank ∧ t.voices.get r = c.bank ∧ t.alloc = c.alloc ∧ t.allocFail = c.allocFail) ∧
    (∀ v, t.voice s.active v =
      { s.voice s.active v with
        sustaining := false, line0 := (t.voice s.active v).line0, line1 := (t.voice s.active v).line1 }) ∧
    (∀ v, ∀ k ∈ lineSlots s.active, (t.voice s.active v).line k = none) ∧
    (∀ v, t.voice r v = { s.voice r v with line0 := (t.voice r v).line0, line1 := (t.voice r v).line1 }) ∧
    (∀ g v, g ≠ s.active → g ≠ r → t.voice g v = s.voice g v) ∧
    (s.allocFail = true → t.allocFail = true) ∧
    ∀ v, ∀ k ∈ lineSlots r, (t.voice r v).line k = none → t.allocFail = true) ∧
  (∀ v : Fin 8, ((State.reset.switchTo .reed).voice .reed v).line0 = some v.val ∧
    ((State.reset.switchTo .bow).voice .bow v).line0 = some (2 * v.val) ∧
    ((State.reset.switchTo .bow).voice .bow v).line1 = some (2 * v.val + 1)) ∧
  (State.reset.switchTo .reed).allocFail = false ∧ (State.reset.switchTo .bow).allocFail = false

/-! ### Reset -/

/-- The reset state of every configuration, with the live values by R811's formula; and with the defaults the loss and envelope
coefficients and the STATUS word (R951, R952). A family without a type slot starts as LPF1, and the last of several decides
(log 10). -/
def Obligations.ResetState : Prop :=
  (∀ cfg : Cfg,
    let s := State.resetOf cfg
    let live := liveByClass cfg.val.table s.live
    s.phase = .idle ∧ s.mode = .run ∧ s.active = .string ∧ s.stopReq = false ∧ s.fsaReq = false ∧
    s.instrReq = ⟨false, .string⟩ ∧ s.cmdErr = false ∧ s.lastErr = .ok ∧ s.result = 0#32 ∧
    (∀ g : Fin 4, s.snap[g] = 0#32 ∧ s.dirty[g] = 0#32) ∧ (∀ n : Fin 128, s.req[n] = .none) ∧
    (∀ (i : Nat) (row : Config.ParamRow), cfg.val.table[i]? = some row →
      s.rawAt i = row.defaultVal ∧ s.live[i]? = some (liveValue row row.defaultVal)) ∧
    (∀ a, s.delay.mem.read a = Fp.zero) ∧ (∀ l, l < s.nLines → s.delay.lines[l]? = some ⟨0, 0⟩) ∧
    s.alloc.avail = (List.range s.nLines).drop 8 ∧ s.allocFail = decide (s.nLines < 8) ∧
    (∀ l, l < s.nLines → s.alloc.owner[l]? =
      some (if h : l < 8 then .voice .string ⟨l, h⟩ 0 else .free)) ∧
    (∀ f, s.pool f = ⟨[], [0, 1, 2, 3, 4, 5, 6, 7], 0⟩) ∧
    s.envReed = ⟨envelopeCoef s.cfg.val (f32Of (live (.env .attack) .reed)),
      envelopeCoef s.cfg.val (f32Of (live (.env .release) .reed))⟩ ∧
    s.envBow = ⟨envelopeCoef s.cfg.val (f32Of (live (.env .attack) .bow)),
      envelopeCoef s.cfg.val (f32Of (live (.env .release) .bow))⟩ ∧
    ∀ f v, let V := s.voice f v
      (V.note = 0 ∧ V.ch = 0 ∧ V.vel = 0 ∧ V.amp = Fp.zero ∧ V.sustaining = false ∧ V.peak = Fp.zero ∧
        V.decay = Fp.zero ∧ V.burstLen = 0 ∧ V.p = 0 ∧ V.n = 0 ∧ V.env = Fp.zero ∧ V.noise = 0#32 ∧
        V.tune = ⟨Fp.zero, Fp.zero⟩) ∧
      (V.line0 = if f = .string ∧ v.val < s.nLines then some v.val else none) ∧ V.line1 = none ∧
      ((∀ row ∈ cfg.val.table, ¬(row.cb = .lossType ∧ row.fam = f)) → V.loss.ty = .lpf1) ∧
      (∀ (i : Nat) (row : Config.ParamRow), cfg.val.table[i]? = some row → row.cb = .lossType → row.fam = f →
        (∀ (j : Nat) (other : Config.ParamRow), i < j → cfg.val.table[j]? = some other →
          ¬(other.cb = .lossType ∧ other.fam = f)) →
        (s.live[i]? = some (.int 0) → V.loss.ty = .lpf1) ∧ (s.live[i]? = some (.int 1) → V.loss.ty = .lpf2)) ∧
      V.loss.s1 = Fp.zero ∧ V.loss.s2 = Fp.zero ∧ Designed s.cfg.val V.loss ∧
      V.loss.fc = Fp.min (Fp.max (if Fp.isNaN (f32Of (live .loss f)) then Fp.zero else (f32Of (live .loss f))) Fp.zero)
        (lossCeiling f) ∧
      StagesOf (live (.disp .stages) f) V.disp.m ∧
      V.disp.gd = keptGroupDelay (f32Of (live (.disp .groupDelay) f)) ∧
      V.disp.vs = Vector.replicate 4 Fp.zero ∧ Recomputed V.disp) ∧
  (∀ v : Fin 8,
    (State.reset.voice .string v).loss =
      ⟨.lpf1, 0x45FA0000#32, 0x3EBB67AE#32, 0x3EBB67AE#32, Fp.zero, 0xBE8930A3#32, Fp.zero, Fp.zero, Fp.zero⟩ ∧
    (State.reset.voice .reed v).loss =
      ⟨.lpf1, 0x457A0000#32, 0x3E58658B#32, 0x3E58658B#32, Fp.zero, 0xBF13CD3A#32, Fp.zero, Fp.zero, Fp.zero⟩ ∧
    (State.reset.voice .bow v).loss =
      ⟨.lpf1, 0x45BB8000#32, 0x3E95F61A#32, 0x3E95F61A#32, Fp.zero, 0xBED413CE#32, Fp.zero, Fp.zero, Fp.zero⟩) ∧
  State.reset.envReed = ⟨0x3A887600#32, 0x39DA6800#32⟩ ∧ State.reset.envBow = ⟨0x39DA6800#32, 0x395A7000#32⟩ ∧
  exec .readStatus State.reset = .next (completed State.reset 0x00080000#32)

/-- The reset state of every configuration meets every invariant (R750, R424, R110, R741, R412). -/
def Obligations.ResetMeetsTheInvariants : Prop := ∀ cfg : Cfg, Inv (State.resetOf cfg)

/-! ### Invariants that every step keeps -/

/-- The delay-sample memory keeps its canonical form (log 5), and every cursor, length, listed sample and line reference stays
in the pool (R130, R412, R912). -/
def Obligations.StepKeepsDelayMemory : Prop :=
  ∀ s t : State, MemoryCanonical s → LinesInBounds s → step s = .next t → MemoryCanonical t ∧ LinesInBounds t

/-- used and unused stay a partition of the eight voices, in every family (R141, R750). -/
def Obligations.StepKeepsPoolPartition : Prop :=
  ∀ s t : State, PoolsPartition s → step s = .next t → PoolsPartition t

/-- A line stays in exactly one of available, held by exactly one voice entry, or held by the HOST (R131, R217, R424). -/
def Obligations.StepKeepsAllocator : Prop :=
  ∀ s t : State, AllocatorConsistent s → step s = .next t → AllocatorConsistent t

/-- RAW stays in range, every live value is that of a raw value in range, and no chain has more than 4 stages (R110, R112,
R134). -/
def Obligations.StepKeepsParameters : Prop :=
  ∀ s t : State, RawInRange s → LiveInRange s → step s = .next t → RawInRange t ∧ LiveInRange t

/-- SNAP is zero whenever no drain is under way, STOP mode is always idle, and callbacks run in ascending order (R741,
R854). -/
def Obligations.StepKeepsPhase : Prop :=
  ∀ s t : State, PhaseConsistent s → step s = .next t → PhaseConsistent t

/-- The excitation counter and the split point stay within the burst (R137, R612). -/
def Obligations.StepKeepsBurst : Prop :=
  ∀ s t : State, BurstInRange s → step s = .next t → BurstInRange t
end

