-- ==== Sys2Proof/Laws/State.lean ====
section
/-! SUPPORT. One lemma per field per named update of State, so that no later proof unfolds a record update. -/

namespace Sys2Proof.Machine.State

/-! ### reject -/

@[simp] theorem reject_cfg (s : State) (c : ErrCode) : (s.reject c).cfg = s.cfg := rfl
@[simp] theorem reject_phase (s : State) (c : ErrCode) : (s.reject c).phase = s.phase := rfl
@[simp] theorem reject_snap (s : State) (c : ErrCode) : (s.reject c).snap = s.snap := rfl
@[simp] theorem reject_raw (s : State) (c : ErrCode) : (s.reject c).raw = s.raw := rfl
@[simp] theorem reject_live (s : State) (c : ErrCode) : (s.reject c).live = s.live := rfl
@[simp] theorem reject_dirty (s : State) (c : ErrCode) : (s.reject c).dirty = s.dirty := rfl
@[simp] theorem reject_req (s : State) (c : ErrCode) : (s.reject c).req = s.req := rfl
@[simp] theorem reject_instrReq (s : State) (c : ErrCode) : (s.reject c).instrReq = s.instrReq := rfl
@[simp] theorem reject_fsaReq (s : State) (c : ErrCode) : (s.reject c).fsaReq = s.fsaReq := rfl
@[simp] theorem reject_stopReq (s : State) (c : ErrCode) : (s.reject c).stopReq = s.stopReq := rfl
@[simp] theorem reject_mode (s : State) (c : ErrCode) : (s.reject c).mode = s.mode := rfl
@[simp] theorem reject_active (s : State) (c : ErrCode) : (s.reject c).active = s.active := rfl
@[simp] theorem reject_allocFail (s : State) (c : ErrCode) : (s.reject c).allocFail = s.allocFail := rfl
@[simp] theorem reject_cmdErr (s : State) (c : ErrCode) : (s.reject c).cmdErr = true := rfl
@[simp] theorem reject_lastErr (s : State) (c : ErrCode) : (s.reject c).lastErr = c := rfl
@[simp] theorem reject_result (s : State) (c : ErrCode) : (s.reject c).result = 0#32 := rfl
@[simp] theorem reject_delay (s : State) (c : ErrCode) : (s.reject c).delay = s.delay := rfl
@[simp] theorem reject_alloc (s : State) (c : ErrCode) : (s.reject c).alloc = s.alloc := rfl
@[simp] theorem reject_voices (s : State) (c : ErrCode) : (s.reject c).voices = s.voices := rfl
@[simp] theorem reject_envReed (s : State) (c : ErrCode) : (s.reject c).envReed = s.envReed := rfl
@[simp] theorem reject_envBow (s : State) (c : ErrCode) : (s.reject c).envBow = s.envBow := rfl
@[simp] theorem reject_pools (s : State) (c : ErrCode) : (s.reject c).pools = s.pools := rfl
@[simp] theorem reject_port (s : State) (c : ErrCode) : (s.reject c).port = s.port := rfl
@[simp] theorem reject_sched (s : State) (c : ErrCode) : (s.reject c).sched = s.sched := rfl
@[simp] theorem reject_emitted (s : State) (c : ErrCode) : (s.reject c).emitted = s.emitted := rfl

/-! ### accept -/

@[simp] theorem accept_cfg (s : State) (r : Word) : (s.accept r).cfg = s.cfg := rfl
@[simp] theorem accept_phase (s : State) (r : Word) : (s.accept r).phase = s.phase := rfl
@[simp] theorem accept_snap (s : State) (r : Word) : (s.accept r).snap = s.snap := rfl
@[simp] theorem accept_raw (s : State) (r : Word) : (s.accept r).raw = s.raw := rfl
@[simp] theorem accept_live (s : State) (r : Word) : (s.accept r).live = s.live := rfl
@[simp] theorem accept_dirty (s : State) (r : Word) : (s.accept r).dirty = s.dirty := rfl
@[simp] theorem accept_req (s : State) (r : Word) : (s.accept r).req = s.req := rfl
@[simp] theorem accept_instrReq (s : State) (r : Word) : (s.accept r).instrReq = s.instrReq := rfl
@[simp] theorem accept_fsaReq (s : State) (r : Word) : (s.accept r).fsaReq = s.fsaReq := rfl
@[simp] theorem accept_stopReq (s : State) (r : Word) : (s.accept r).stopReq = s.stopReq := rfl
@[simp] theorem accept_mode (s : State) (r : Word) : (s.accept r).mode = s.mode := rfl
@[simp] theorem accept_active (s : State) (r : Word) : (s.accept r).active = s.active := rfl
@[simp] theorem accept_allocFail (s : State) (r : Word) : (s.accept r).allocFail = s.allocFail := rfl
@[simp] theorem accept_cmdErr (s : State) (r : Word) : (s.accept r).cmdErr = s.cmdErr := rfl
@[simp] theorem accept_lastErr (s : State) (r : Word) : (s.accept r).lastErr = .ok := rfl
@[simp] theorem accept_result (s : State) (r : Word) : (s.accept r).result = r := rfl
@[simp] theorem accept_delay (s : State) (r : Word) : (s.accept r).delay = s.delay := rfl
@[simp] theorem accept_alloc (s : State) (r : Word) : (s.accept r).alloc = s.alloc := rfl
@[simp] theorem accept_voices (s : State) (r : Word) : (s.accept r).voices = s.voices := rfl
@[simp] theorem accept_envReed (s : State) (r : Word) : (s.accept r).envReed = s.envReed := rfl
@[simp] theorem accept_envBow (s : State) (r : Word) : (s.accept r).envBow = s.envBow := rfl
@[simp] theorem accept_pools (s : State) (r : Word) : (s.accept r).pools = s.pools := rfl
@[simp] theorem accept_port (s : State) (r : Word) : (s.accept r).port = s.port := rfl
@[simp] theorem accept_sched (s : State) (r : Word) : (s.accept r).sched = s.sched := rfl
@[simp] theorem accept_emitted (s : State) (r : Word) : (s.accept r).emitted = s.emitted := rfl

/-! ### setVoice -/

@[simp] theorem setVoice_cfg (s : State) (f : Family) (v : Fin 8) (V : Voice) : (s.setVoice f v V).cfg = s.cfg := rfl
@[simp] theorem setVoice_phase (s : State) (f : Family) (v : Fin 8) (V : Voice) : (s.setVoice f v V).phase = s.phase := rfl
@[simp] theorem setVoice_snap (s : State) (f : Family) (v : Fin 8) (V : Voice) : (s.setVoice f v V).snap = s.snap := rfl
@[simp] theorem setVoice_raw (s : State) (f : Family) (v : Fin 8) (V : Voice) : (s.setVoice f v V).raw = s.raw := rfl
@[simp] theorem setVoice_live (s : State) (f : Family) (v : Fin 8) (V : Voice) : (s.setVoice f v V).live = s.live := rfl
@[simp] theorem setVoice_dirty (s : State) (f : Family) (v : Fin 8) (V : Voice) : (s.setVoice f v V).dirty = s.dirty := rfl
@[simp] theorem setVoice_req (s : State) (f : Family) (v : Fin 8) (V : Voice) : (s.setVoice f v V).req = s.req := rfl
@[simp] theorem setVoice_instrReq (s : State) (f : Family) (v : Fin 8) (V : Voice) : (s.setVoice f v V).instrReq = s.instrReq := rfl
@[simp] theorem setVoice_fsaReq (s : State) (f : Family) (v : Fin 8) (V : Voice) : (s.setVoice f v V).fsaReq = s.fsaReq := rfl
@[simp] theorem setVoice_stopReq (s : State) (f : Family) (v : Fin 8) (V : Voice) : (s.setVoice f v V).stopReq = s.stopReq := rfl
@[simp] theorem setVoice_mode (s : State) (f : Family) (v : Fin 8) (V : Voice) : (s.setVoice f v V).mode = s.mode := rfl
@[simp] theorem setVoice_active (s : State) (f : Family) (v : Fin 8) (V : Voice) : (s.setVoice f v V).active = s.active := rfl
@[simp] theorem setVoice_allocFail (s : State) (f : Family) (v : Fin 8) (V : Voice) : (s.setVoice f v V).allocFail = s.allocFail := rfl
@[simp] theorem setVoice_cmdErr (s : State) (f : Family) (v : Fin 8) (V : Voice) : (s.setVoice f v V).cmdErr = s.cmdErr := rfl
@[simp] theorem setVoice_lastErr (s : State) (f : Family) (v : Fin 8) (V : Voice) : (s.setVoice f v V).lastErr = s.lastErr := rfl
@[simp] theorem setVoice_result (s : State) (f : Family) (v : Fin 8) (V : Voice) : (s.setVoice f v V).result = s.result := rfl
@[simp] theorem setVoice_delay (s : State) (f : Family) (v : Fin 8) (V : Voice) : (s.setVoice f v V).delay = s.delay := rfl
@[simp] theorem setVoice_alloc (s : State) (f : Family) (v : Fin 8) (V : Voice) : (s.setVoice f v V).alloc = s.alloc := rfl
@[simp] theorem setVoice_voices (s : State) (f : Family) (v : Fin 8) (V : Voice) : (s.setVoice f v V).voices = s.voices.set f ((s.voices.get f).set v V) := rfl
@[simp] theorem setVoice_envReed (s : State) (f : Family) (v : Fin 8) (V : Voice) : (s.setVoice f v V).envReed = s.envReed := rfl
@[simp] theorem setVoice_envBow (s : State) (f : Family) (v : Fin 8) (V : Voice) : (s.setVoice f v V).envBow = s.envBow := rfl
@[simp] theorem setVoice_pools (s : State) (f : Family) (v : Fin 8) (V : Voice) : (s.setVoice f v V).pools = s.pools := rfl
@[simp] theorem setVoice_port (s : State) (f : Family) (v : Fin 8) (V : Voice) : (s.setVoice f v V).port = s.port := rfl
@[simp] theorem setVoice_sched (s : State) (f : Family) (v : Fin 8) (V : Voice) : (s.setVoice f v V).sched = s.sched := rfl
@[simp] theorem setVoice_emitted (s : State) (f : Family) (v : Fin 8) (V : Voice) : (s.setVoice f v V).emitted = s.emitted := rfl

/-! ### mapVoices -/

@[simp] theorem mapVoices_cfg (s : State) (f : Family) (g : Voice → Voice) : (s.mapVoices f g).cfg = s.cfg := rfl
@[simp] theorem mapVoices_phase (s : State) (f : Family) (g : Voice → Voice) : (s.mapVoices f g).phase = s.phase := rfl
@[simp] theorem mapVoices_snap (s : State) (f : Family) (g : Voice → Voice) : (s.mapVoices f g).snap = s.snap := rfl
@[simp] theorem mapVoices_raw (s : State) (f : Family) (g : Voice → Voice) : (s.mapVoices f g).raw = s.raw := rfl
@[simp] theorem mapVoices_live (s : State) (f : Family) (g : Voice → Voice) : (s.mapVoices f g).live = s.live := rfl
@[simp] theorem mapVoices_dirty (s : State) (f : Family) (g : Voice → Voice) : (s.mapVoices f g).dirty = s.dirty := rfl
@[simp] theorem mapVoices_req (s : State) (f : Family) (g : Voice → Voice) : (s.mapVoices f g).req = s.req := rfl
@[simp] theorem mapVoices_instrReq (s : State) (f : Family) (g : Voice → Voice) : (s.mapVoices f g).instrReq = s.instrReq := rfl
@[simp] theorem mapVoices_fsaReq (s : State) (f : Family) (g : Voice → Voice) : (s.mapVoices f g).fsaReq = s.fsaReq := rfl
@[simp] theorem mapVoices_stopReq (s : State) (f : Family) (g : Voice → Voice) : (s.mapVoices f g).stopReq = s.stopReq := rfl
@[simp] theorem mapVoices_mode (s : State) (f : Family) (g : Voice → Voice) : (s.mapVoices f g).mode = s.mode := rfl
@[simp] theorem mapVoices_active (s : State) (f : Family) (g : Voice → Voice) : (s.mapVoices f g).active = s.active := rfl
@[simp] theorem mapVoices_allocFail (s : State) (f : Family) (g : Voice → Voice) : (s.mapVoices f g).allocFail = s.allocFail := rfl
@[simp] theorem mapVoices_cmdErr (s : State) (f : Family) (g : Voice → Voice) : (s.mapVoices f g).cmdErr = s.cmdErr := rfl
@[simp] theorem mapVoices_lastErr (s : State) (f : Family) (g : Voice → Voice) : (s.mapVoices f g).lastErr = s.lastErr := rfl
@[simp] theorem mapVoices_result (s : State) (f : Family) (g : Voice → Voice) : (s.mapVoices f g).result = s.result := rfl
@[simp] theorem mapVoices_delay (s : State) (f : Family) (g : Voice → Voice) : (s.mapVoices f g).delay = s.delay := rfl
@[simp] theorem mapVoices_alloc (s : State) (f : Family) (g : Voice → Voice) : (s.mapVoices f g).alloc = s.alloc := rfl
@[simp] theorem mapVoices_voices (s : State) (f : Family) (g : Voice → Voice) : (s.mapVoices f g).voices = s.voices.set f (Vector.ofFn fun v => g (s.voice f v)) := rfl
@[simp] theorem mapVoices_envReed (s : State) (f : Family) (g : Voice → Voice) : (s.mapVoices f g).envReed = s.envReed := rfl
@[simp] theorem mapVoices_envBow (s : State) (f : Family) (g : Voice → Voice) : (s.mapVoices f g).envBow = s.envBow := rfl
@[simp] theorem mapVoices_pools (s : State) (f : Family) (g : Voice → Voice) : (s.mapVoices f g).pools = s.pools := rfl
@[simp] theorem mapVoices_port (s : State) (f : Family) (g : Voice → Voice) : (s.mapVoices f g).port = s.port := rfl
@[simp] theorem mapVoices_sched (s : State) (f : Family) (g : Voice → Voice) : (s.mapVoices f g).sched = s.sched := rfl
@[simp] theorem mapVoices_emitted (s : State) (f : Family) (g : Voice → Voice) : (s.mapVoices f g).emitted = s.emitted := rfl

/-! ### setPool -/

@[simp] theorem setPool_cfg (s : State) (f : Family) (P : PolySynth) : (s.setPool f P).cfg = s.cfg := rfl
@[simp] theorem setPool_phase (s : State) (f : Family) (P : PolySynth) : (s.setPool f P).phase = s.phase := rfl
@[simp] theorem setPool_snap (s : State) (f : Family) (P : PolySynth) : (s.setPool f P).snap = s.snap := rfl
@[simp] theorem setPool_raw (s : State) (f : Family) (P : PolySynth) : (s.setPool f P).raw = s.raw := rfl
@[simp] theorem setPool_live (s : State) (f : Family) (P : PolySynth) : (s.setPool f P).live = s.live := rfl
@[simp] theorem setPool_dirty (s : State) (f : Family) (P : PolySynth) : (s.setPool f P).dirty = s.dirty := rfl
@[simp] theorem setPool_req (s : State) (f : Family) (P : PolySynth) : (s.setPool f P).req = s.req := rfl
@[simp] theorem setPool_instrReq (s : State) (f : Family) (P : PolySynth) : (s.setPool f P).instrReq = s.instrReq := rfl
@[simp] theorem setPool_fsaReq (s : State) (f : Family) (P : PolySynth) : (s.setPool f P).fsaReq = s.fsaReq := rfl
@[simp] theorem setPool_stopReq (s : State) (f : Family) (P : PolySynth) : (s.setPool f P).stopReq = s.stopReq := rfl
@[simp] theorem setPool_mode (s : State) (f : Family) (P : PolySynth) : (s.setPool f P).mode = s.mode := rfl
@[simp] theorem setPool_active (s : State) (f : Family) (P : PolySynth) : (s.setPool f P).active = s.active := rfl
@[simp] theorem setPool_allocFail (s : State) (f : Family) (P : PolySynth) : (s.setPool f P).allocFail = s.allocFail := rfl
@[simp] theorem setPool_cmdErr (s : State) (f : Family) (P : PolySynth) : (s.setPool f P).cmdErr = s.cmdErr := rfl
@[simp] theorem setPool_lastErr (s : State) (f : Family) (P : PolySynth) : (s.setPool f P).lastErr = s.lastErr := rfl
@[simp] theorem setPool_result (s : State) (f : Family) (P : PolySynth) : (s.setPool f P).result = s.result := rfl
@[simp] theorem setPool_delay (s : State) (f : Family) (P : PolySynth) : (s.setPool f P).delay = s.delay := rfl
@[simp] theorem setPool_alloc (s : State) (f : Family) (P : PolySynth) : (s.setPool f P).alloc = s.alloc := rfl
@[simp] theorem setPool_voices (s : State) (f : Family) (P : PolySynth) : (s.setPool f P).voices = s.voices := rfl
@[simp] theorem setPool_envReed (s : State) (f : Family) (P : PolySynth) : (s.setPool f P).envReed = s.envReed := rfl
@[simp] theorem setPool_envBow (s : State) (f : Family) (P : PolySynth) : (s.setPool f P).envBow = s.envBow := rfl
@[simp] theorem setPool_pools (s : State) (f : Family) (P : PolySynth) : (s.setPool f P).pools = s.pools.set f P := rfl
@[simp] theorem setPool_port (s : State) (f : Family) (P : PolySynth) : (s.setPool f P).port = s.port := rfl
@[simp] theorem setPool_sched (s : State) (f : Family) (P : PolySynth) : (s.setPool f P).sched = s.sched := rfl
@[simp] theorem setPool_emitted (s : State) (f : Family) (P : PolySynth) : (s.setPool f P).emitted = s.emitted := rfl

/-! ### emit -/

@[simp] theorem emit_cfg (s : State) (b : OutBlock) : (s.emit b).cfg = s.cfg := rfl
@[simp] theorem emit_phase (s : State) (b : OutBlock) : (s.emit b).phase = s.phase := rfl
@[simp] theorem emit_snap (s : State) (b : OutBlock) : (s.emit b).snap = s.snap := rfl
@[simp] theorem emit_raw (s : State) (b : OutBlock) : (s.emit b).raw = s.raw := rfl
@[simp] theorem emit_live (s : State) (b : OutBlock) : (s.emit b).live = s.live := rfl
@[simp] theorem emit_dirty (s : State) (b : OutBlock) : (s.emit b).dirty = s.dirty := rfl
@[simp] theorem emit_req (s : State) (b : OutBlock) : (s.emit b).req = s.req := rfl
@[simp] theorem emit_instrReq (s : State) (b : OutBlock) : (s.emit b).instrReq = s.instrReq := rfl
@[simp] theorem emit_fsaReq (s : State) (b : OutBlock) : (s.emit b).fsaReq = s.fsaReq := rfl
@[simp] theorem emit_stopReq (s : State) (b : OutBlock) : (s.emit b).stopReq = s.stopReq := rfl
@[simp] theorem emit_mode (s : State) (b : OutBlock) : (s.emit b).mode = s.mode := rfl
@[simp] theorem emit_active (s : State) (b : OutBlock) : (s.emit b).active = s.active := rfl
@[simp] theorem emit_allocFail (s : State) (b : OutBlock) : (s.emit b).allocFail = s.allocFail := rfl
@[simp] theorem emit_cmdErr (s : State) (b : OutBlock) : (s.emit b).cmdErr = s.cmdErr := rfl
@[simp] theorem emit_lastErr (s : State) (b : OutBlock) : (s.emit b).lastErr = s.lastErr := rfl
@[simp] theorem emit_result (s : State) (b : OutBlock) : (s.emit b).result = s.result := rfl
@[simp] theorem emit_delay (s : State) (b : OutBlock) : (s.emit b).delay = s.delay := rfl
@[simp] theorem emit_alloc (s : State) (b : OutBlock) : (s.emit b).alloc = s.alloc := rfl
@[simp] theorem emit_voices (s : State) (b : OutBlock) : (s.emit b).voices = s.voices := rfl
@[simp] theorem emit_envReed (s : State) (b : OutBlock) : (s.emit b).envReed = s.envReed := rfl
@[simp] theorem emit_envBow (s : State) (b : OutBlock) : (s.emit b).envBow = s.envBow := rfl
@[simp] theorem emit_pools (s : State) (b : OutBlock) : (s.emit b).pools = s.pools := rfl
@[simp] theorem emit_port (s : State) (b : OutBlock) : (s.emit b).port = s.port := rfl
@[simp] theorem emit_sched (s : State) (b : OutBlock) : (s.emit b).sched = s.sched := rfl
@[simp] theorem emit_emitted (s : State) (b : OutBlock) : (s.emit b).emitted = s.emitted ++ [b] := rfl

/-! ### setEnvCoefs -/

@[simp] theorem setEnvCoefs_cfg (s : State) (f : Family) (k : EnvCoefs) : (s.setEnvCoefs f k).cfg = s.cfg := by cases f <;> rfl
@[simp] theorem setEnvCoefs_phase (s : State) (f : Family) (k : EnvCoefs) : (s.setEnvCoefs f k).phase = s.phase := by cases f <;> rfl
@[simp] theorem setEnvCoefs_snap (s : State) (f : Family) (k : EnvCoefs) : (s.setEnvCoefs f k).snap = s.snap := by cases f <;> rfl
@[simp] theorem setEnvCoefs_raw (s : State) (f : Family) (k : EnvCoefs) : (s.setEnvCoefs f k).raw = s.raw := by cases f <;> rfl
@[simp] theorem setEnvCoefs_live (s : State) (f : Family) (k : EnvCoefs) : (s.setEnvCoefs f k).live = s.live := by cases f <;> rfl
@[simp] theorem setEnvCoefs_dirty (s : State) (f : Family) (k : EnvCoefs) : (s.setEnvCoefs f k).dirty = s.dirty := by cases f <;> rfl
@[simp] theorem setEnvCoefs_req (s : State) (f : Family) (k : EnvCoefs) : (s.setEnvCoefs f k).req = s.req := by cases f <;> rfl
@[simp] theorem setEnvCoefs_instrReq (s : State) (f : Family) (k : EnvCoefs) : (s.setEnvCoefs f k).instrReq = s.instrReq := by cases f <;> rfl
@[simp] theorem setEnvCoefs_fsaReq (s : State) (f : Family) (k : EnvCoefs) : (s.setEnvCoefs f k).fsaReq = s.fsaReq := by cases f <;> rfl
@[simp] theorem setEnvCoefs_stopReq (s : State) (f : Family) (k : EnvCoefs) : (s.setEnvCoefs f k).stopReq = s.stopReq := by cases f <;> rfl
@[simp] theorem setEnvCoefs_mode (s : State) (f : Family) (k : EnvCoefs) : (s.setEnvCoefs f k).mode = s.mode := by cases f <;> rfl
@[simp] theorem setEnvCoefs_active (s : State) (f : Family) (k : EnvCoefs) : (s.setEnvCoefs f k).active = s.active := by cases f <;> rfl
@[simp] theorem setEnvCoefs_allocFail (s : State) (f : Family) (k : EnvCoefs) : (s.setEnvCoefs f k).allocFail = s.allocFail := by cases f <;> rfl
@[simp] theorem setEnvCoefs_cmdErr (s : State) (f : Family) (k : EnvCoefs) : (s.setEnvCoefs f k).cmdErr = s.cmdErr := by cases f <;> rfl
@[simp] theorem setEnvCoefs_lastErr (s : State) (f : Family) (k : EnvCoefs) : (s.setEnvCoefs f k).lastErr = s.lastErr := by cases f <;> rfl
@[simp] theorem setEnvCoefs_result (s : State) (f : Family) (k : EnvCoefs) : (s.setEnvCoefs f k).result = s.result := by cases f <;> rfl
@[simp] theorem setEnvCoefs_delay (s : State) (f : Family) (k : EnvCoefs) : (s.setEnvCoefs f k).delay = s.delay := by cases f <;> rfl
@[simp] theorem setEnvCoefs_alloc (s : State) (f : Family) (k : EnvCoefs) : (s.setEnvCoefs f k).alloc = s.alloc := by cases f <;> rfl
@[simp] theorem setEnvCoefs_voices (s : State) (f : Family) (k : EnvCoefs) : (s.setEnvCoefs f k).voices = s.voices := by cases f <;> rfl
@[simp] theorem setEnvCoefs_pools (s : State) (f : Family) (k : EnvCoefs) : (s.setEnvCoefs f k).pools = s.pools := by cases f <;> rfl
@[simp] theorem setEnvCoefs_port (s : State) (f : Family) (k : EnvCoefs) : (s.setEnvCoefs f k).port = s.port := by cases f <;> rfl
@[simp] theorem setEnvCoefs_sched (s : State) (f : Family) (k : EnvCoefs) : (s.setEnvCoefs f k).sched = s.sched := by cases f <;> rfl
@[simp] theorem setEnvCoefs_emitted (s : State) (f : Family) (k : EnvCoefs) : (s.setEnvCoefs f k).emitted = s.emitted := by cases f <;> rfl

@[simp] theorem setEnvCoefs_reed_envReed (s : State) (k : EnvCoefs) : (s.setEnvCoefs .reed k).envReed = k := rfl
@[simp] theorem setEnvCoefs_reed_envBow (s : State) (k : EnvCoefs) : (s.setEnvCoefs .reed k).envBow = s.envBow := rfl
@[simp] theorem setEnvCoefs_bow_envBow (s : State) (k : EnvCoefs) : (s.setEnvCoefs .bow k).envBow = k := rfl
@[simp] theorem setEnvCoefs_bow_envReed (s : State) (k : EnvCoefs) : (s.setEnvCoefs .bow k).envReed = s.envReed := rfl
@[simp] theorem setEnvCoefs_string (s : State) (k : EnvCoefs) : s.setEnvCoefs .string k = s := rfl

end Sys2Proof.Machine.State

namespace Sys2Proof.Machine

/-! ### Families and voices -/

@[simp] theorem PerFamily.get_set_same {α : Type} (p : PerFamily α) (f : Family) (x : α) : (p.set f x).get f = x := by
  cases f <;> rfl

theorem PerFamily.get_set_other {α : Type} (p : PerFamily α) {f g : Family} (x : α) (h : g ≠ f) :
    (p.set f x).get g = p.get g := by
  cases f <;> cases g <;> first | rfl | exact absurd rfl h

theorem PerFamily.ext_get {α : Type} {p q : PerFamily α} (h : ∀ f, p.get f = q.get f) : p = q := by
  have hs := h .string
  have hr := h .reed
  have hb := h .bow
  cases p
  cases q
  simp only [get] at hs hr hb
  rw [hs, hr, hb]

namespace State

@[simp] theorem voice_setVoice_same (s : State) (f : Family) (v : Fin 8) (V : Voice) :
    (s.setVoice f v V).voice f v = V := by
  simp [voice]

theorem voice_setVoice_other (s : State) {f g : Family} {v u : Fin 8} (V : Voice) (h : ¬(g = f ∧ u = v)) :
    (s.setVoice f v V).voice g u = s.voice g u := by
  by_cases hg : g = f
  · subst hg
    have hu : v.val ≠ u.val := fun e => h ⟨rfl, Fin.ext e.symm⟩
    simp [voice, hu]
  · simp [voice, PerFamily.get_set_other _ _ hg]

@[simp] theorem voice_mapVoices_same (s : State) (f : Family) (g : Voice → Voice) (v : Fin 8) :
    (s.mapVoices f g).voice f v = g (s.voice f v) := by
  simp [voice]

theorem voice_mapVoices_other (s : State) {f h : Family} (g : Voice → Voice) (v : Fin 8) (hne : h ≠ f) :
    (s.mapVoices f g).voice h v = s.voice h v := by
  simp [voice, PerFamily.get_set_other _ _ hne]

@[simp] theorem pool_setPool_same (s : State) (f : Family) (P : PolySynth) : (s.setPool f P).pool f = P := by
  simp [pool]

theorem pool_setPool_other (s : State) {f g : Family} (P : PolySynth) (h : g ≠ f) :
    (s.setPool f P).pool g = s.pool g := by
  simp [pool, PerFamily.get_set_other _ _ h]

end State
end Sys2Proof.Machine
end

