-- ==== Sys2Proof/Laws/Alloc.lean ====
section
/-! SUPPORT. What Pop, Push_avail, Checkout and Release do (41_delay_alloc R420–R423). -/

namespace Sys2Proof.Machine

namespace Allocator

/-- Pop takes the top line for the owner, or nothing from an empty stack. -/
theorem pop_cases (a : Allocator) (o : Owner) :
    (a.avail = [] ∧ a.pop o = (none, a)) ∨
      ∃ l rest, a.avail = l :: rest ∧ a.pop o = (some l, ⟨rest, a.owner.set l o⟩) := by
  unfold pop
  cases h : a.avail with
  | nil => exact .inl ⟨rfl, rfl⟩
  | cons l rest => exact .inr ⟨l, rest, rfl, rfl⟩

theorem ownerOf_set_same {a : List Nat} {w : List Owner} {l : Nat} (o : Owner) (h : l < w.length) :
    (Allocator.mk a (w.set l o)).ownerOf l = o := by
  simp [ownerOf, List.getD_eq_getElem?_getD, h]

theorem ownerOf_set_other {a b : List Nat} {w : List Owner} {l k : Nat} (o : Owner) (h : k ≠ l) :
    (Allocator.mk a (w.set l o)).ownerOf k = (Allocator.mk b w).ownerOf k := by
  simp [ownerOf, List.getD_eq_getElem?_getD, List.getElem?_set_ne (Ne.symm h)]

end Allocator

/-! ### Line references -/

namespace Voice

@[simp] theorem setLine_line_same (V : Voice) (k : Fin 2) (l : Option Nat) : (V.setLine k l).line k = l := by
  unfold setLine line
  by_cases h : k = 0 <;> simp [h]

theorem setLine_line_other (V : Voice) {k j : Fin 2} (l : Option Nat) (h : j ≠ k) :
    (V.setLine k l).line j = V.line j := by
  unfold setLine line
  by_cases hk : k = 0
  · have : j ≠ 0 := fun e => h (e.trans hk.symm)
    simp [hk, this]
  · have : j = 0 := by omega
    simp [hk, this]

/-- A line reference is all that setLine changes. -/
theorem setLine_same (V : Voice) (k : Fin 2) (l : Option Nat) :
    V.setLine k l = { V with line0 := (V.setLine k l).line0, line1 := (V.setLine k l).line1 } := by
  unfold setLine
  by_cases h : k = 0 <;> simp [h]

end Voice

/-- Two banks whose voices differ in their line references only. -/
def Bank.SameButLines (a b : Bank) : Prop :=
  ∀ v : Fin 8, b[v] = { a[v] with line0 := b[v].line0, line1 := b[v].line1 }

theorem Bank.SameButLines.refl (b : Bank) : Bank.SameButLines b b := fun _ => rfl

theorem Bank.SameButLines.trans {a b d : Bank} (h : Bank.SameButLines a b) (g : Bank.SameButLines b d) :
    Bank.SameButLines a d := by
  intro v
  rw [g v, h v]

theorem Bank.sameButLines_set (b : Bank) (v : Fin 8) (k : Fin 2) (l : Option Nat) :
    Bank.SameButLines b (b.set v (b[v].setLine k l)) := by
  intro u
  by_cases h : v.val = u.val
  · have hu : u = v := Fin.ext h.symm
    subst hu
    simp only [Fin.getElem_fin, Vector.getElem_set_self]
    exact Voice.setLine_same _ _ _
  · simp only [Fin.getElem_fin, Vector.getElem_set_ne _ _ h]

/-- Setting one voice's line k leaves every other (voice, slot) alone. -/
theorem bank_line_set_other (b : Bank) {v u : Fin 8} {k j : Fin 2} (l : Option Nat) (h : (u, j) ≠ (v, k)) :
    ((b.set v (b[v].setLine k l))[u]).line j = b[u].line j := by
  by_cases hv : v.val = u.val
  · have hu : u = v := Fin.ext hv.symm
    subst hu
    have hj : j ≠ k := fun e => h (by rw [e])
    simp only [Fin.getElem_fin, Vector.getElem_set_self]
    exact Voice.setLine_line_other _ _ hj
  · simp only [Fin.getElem_fin, Vector.getElem_set_ne _ _ hv]

theorem bank_line_set_same (b : Bank) (v : Fin 8) (k : Fin 2) (l : Option Nat) :
    ((b.set v (b[v].setLine k l))[v]).line k = l := by
  simp only [Fin.getElem_fin, Vector.getElem_set_self]
  exact Voice.setLine_line_same _ _ _

theorem checkoutOne_bank (f : Family) (h : Holding) (vk : Fin 8 × Fin 2) :
    (checkoutOne f h vk).bank =
      h.bank.set vk.1 (h.bank[vk.1].setLine vk.2 (h.alloc.pop (.voice f vk.1 vk.2)).1) := rfl

theorem releaseOne_bank (h : Holding) (vk : Fin 8 × Fin 2) :
    (releaseOne h vk).bank = h.bank.set vk.1 (h.bank[vk.1].setLine vk.2 none) := rfl

theorem checkoutAll_sameButLines (f : Family) (ks : List (Fin 8 × Fin 2)) (h : Holding) :
    Bank.SameButLines h.bank (ks.foldl (checkoutOne f) h).bank := by
  induction ks generalizing h with
  | nil => exact .refl _
  | cons k ks ih =>
    rw [List.foldl_cons]
    exact Bank.SameButLines.trans (b := (checkoutOne f h k).bank) (Bank.sameButLines_set h.bank k.1 k.2 _) (ih _)

theorem releaseAll_sameButLines (ks : List (Fin 8 × Fin 2)) (h : Holding) :
    Bank.SameButLines h.bank (ks.foldl releaseOne h).bank := by
  induction ks generalizing h with
  | nil => exact .refl _
  | cons k ks ih =>
    rw [List.foldl_cons]
    exact Bank.SameButLines.trans (b := (releaseOne h k).bank) (Bank.sameButLines_set h.bank k.1 k.2 _) (ih _)

/-- Checkout changes line references only. -/
theorem checkout_sameButLines (f : Family) (h : Holding) : Bank.SameButLines h.bank (checkout f h).bank :=
  checkoutAll_sameButLines f _ h

/-- Release changes line references only. -/
theorem release_sameButLines (f : Family) (h : Holding) : Bank.SameButLines h.bank (release f h).bank :=
  releaseAll_sameButLines _ h

/-- What holds of the holding and is kept by one step of Checkout holds after it. -/
theorem checkout_induction (f : Family) {P : Holding → Prop} (hs : ∀ h vk, vk ∈ lineKeys f → P h → P (checkoutOne f h vk))
    {h : Holding} (h0 : P h) : P (checkout f h) := by
  unfold checkout
  have : ∀ (ks : List (Fin 8 × Fin 2)) (h : Holding), (∀ vk ∈ ks, vk ∈ lineKeys f) → P h →
      P (ks.foldl (checkoutOne f) h) := by
    intro ks
    induction ks with
    | nil => exact fun _ _ h => h
    | cons k ks ih =>
      intro h hk hp
      exact ih _ (fun vk hv => hk vk (by simp [hv])) (hs h k (hk k (by simp)) hp)
  exact this _ h (fun _ h => h) h0

/-- What holds of the holding and is kept by one step of Release holds after it. -/
theorem release_induction (f : Family) {P : Holding → Prop} (hs : ∀ h vk, vk ∈ lineKeys f → P h → P (releaseOne h vk))
    {h : Holding} (h0 : P h) : P (release f h) := by
  unfold release
  have : ∀ (ks : List (Fin 8 × Fin 2)) (h : Holding), (∀ vk ∈ ks, vk ∈ lineKeys f) → P h →
      P (ks.foldl releaseOne h) := by
    intro ks
    induction ks with
    | nil => exact fun _ _ h => h
    | cons k ks ih =>
      intro h hk hp
      exact ih _ (fun vk hv => hk vk (by simp [hv])) (hs h k (hk k (by simp)) hp)
  exact this _ h (fun _ h => List.mem_reverse.1 h) h0

theorem mem_lineKeys {f : Family} {v : Fin 8} {k : Fin 2} : (v, k) ∈ lineKeys f ↔ k ∈ lineSlots f := by
  cases f <;> revert v k <;> decide

/-! ### The instrument switch -/

/-- What Release(ACTIVE) in a switch works on: the voices are already told to stop (46_polysynth R713). -/
def switchRelease (s : State) : Holding :=
  release s.active ⟨s.alloc, (s.psForceStopAll s.active).voices.get s.active, s.allocFail⟩

/-- What Checkout(r) in a switch gives. -/
def switchCheckout (s : State) (r : Family) : Holding :=
  checkout r ⟨(switchRelease s).alloc, s.voices.get r, (switchRelease s).allocFail⟩

theorem switchTo_active (s : State) : s.switchTo s.active = s := by simp [State.switchTo]

/-- Everything that a switch to another family changes. -/
theorem switchTo_other {s : State} {r : Family} (h : r ≠ s.active) :
    s.switchTo r = { s with
      alloc := (switchCheckout s r).alloc
      allocFail := (switchCheckout s r).allocFail
      voices := (s.voices.set s.active (switchRelease s).bank).set r (switchCheckout s r).bank
      pools := s.pools.set s.active emptyPool
      active := r } := by
  have hset : ∀ {α : Type} (p : PerFamily α) (f : Family) (x y : α), (p.set f x).set f y = p.set f y := by
    intro α p f x y
    cases f <;> rfl
  have hget : ∀ {α : Type} (p : PerFamily α) (x : α), (p.set s.active x).get r = p.get r :=
    fun p x => PerFamily.get_set_other p x h
  unfold State.switchTo
  rw [if_neg h]
  simp only [State.checkoutFamily, State.releaseFamily, State.psForceStopAll, State.mapVoices, State.setPool,
    switchCheckout, switchRelease, hset, hget]

end Sys2Proof.Machine
end

