-- ==== Sys2Proof/Laws/ConfigFns.lean ====
section
/-! SUPPORT. What the configuration functions of Machine/ConfigFns.lean can answer, so that no proof unfolds them. -/

namespace Sys2Proof.Fp

/-- A law's range holds of whatever `within` answers. -/
theorem within_range {lo hi : F32} (y : F32) (hlo : le lo zero = true) (hhi : le zero hi = true) :
    le lo (within lo hi y) = true ∧ le (within lo hi y) hi = true := by
  unfold within
  split
  · rename_i h; simpa using h
  · exact ⟨hlo, hhi⟩

/-- `within` changes no value that obeys the law. -/
theorem within_of_range {lo hi y : F32} (h : le lo y = true) (h' : le y hi = true) : within lo hi y = y := by
  simp [within, h, h']

theorem atan2_of_not_nan (fns : Config.Functions) {y x : F32} (hy : isNaN y = false) (hx : isNaN x = false) :
    atan2 fns y x = within (neg pi32) pi32 (atan2Raw fns y x) := by
  simp [atan2, hy, hx]

theorem tanhMagnitude_of_not_nan (fns : Config.Functions) {x : F32} (hx : isNaN x = false) :
    tanhMagnitude fns x = within minusOne one (tanhRaw fns x) := by
  simp [tanhMagnitude, hx]

@[simp] theorem exp32_zero (fns : Config.Functions) : exp32 fns zero = one := by simp [exp32]

@[simp] theorem pow2_zero (fns : Config.Functions) : pow2 fns zero = one := by simp [pow2]

/-! ### The default -/

@[simp] theorem tan32_default (x : F32) : tan32 .correctlyRounded x = Elementary.tan x := rfl

@[simp] theorem sin32_default (x : F32) : sin32 .correctlyRounded x = Elementary.sin x := rfl

@[simp] theorem cos32_default (x : F32) : cos32 .correctlyRounded x = Elementary.cos x := rfl

@[simp] theorem pow10_default (x : F32) : pow10 .correctlyRounded x = Elementary.pow10 x := rfl

@[simp] theorem atan2Raw_default (y x : F32) : atan2Raw .correctlyRounded y x = Elementary.atan2 y x := rfl

@[simp] theorem tanhRaw_default (x : F32) : tanhRaw .correctlyRounded x = Elementary.tanh x := rfl

end Sys2Proof.Fp
end

