-- ==== Sys2Proof/Laws/Decode.lean ====
section
/-! SUPPORT. The fields of word 0: a field of an OR is the OR of the fields, and the field of one operand placed in the
word. -/

namespace Sys2Proof

/-- A field of an OR is the OR of the fields. -/
theorem fieldOf_or (a b : Word) (hi lo : Nat) : fieldOf (a ||| b) hi lo = fieldOf a hi lo ||| fieldOf b hi lo := by
  simp only [fieldOf, BitVec.toNat_or, Nat.shiftRight_or_distrib, Nat.or_mod_two_pow]

theorem unitOf_or (a b : Word) : unitOf (a ||| b) = unitOf a ||| unitOf b := fieldOf_or a b 31 28

theorem opOf_or (a b : Word) : opOf (a ||| b) = opOf a ||| opOf b := fieldOf_or a b 27 24

/-- An operand below bit 24 leaves UNIT alone. -/
theorem unitOf_place {n lo : Nat} (h : n * 2 ^ lo < 2 ^ 24) : unitOf (place n lo) = 0 := by
  have hs : (BitVec.ofNat 32 n <<< lo).toNat < 2 ^ 24 := by
    simp only [BitVec.toNat_shiftLeft, BitVec.toNat_ofNat, Nat.shiftLeft_eq]
    refine lt_of_le_of_lt (Nat.mod_le _ _) (lt_of_le_of_lt (Nat.mul_le_mul_right _ (Nat.mod_le _ _)) h)
  simp only [unitOf, fieldOf, place, Nat.shiftRight_eq_div_pow]
  rw [Nat.div_eq_of_lt (lt_of_lt_of_le hs (by norm_num)), Nat.zero_mod]

/-- An operand below bit 24 leaves OP alone. -/
theorem opOf_place {n lo : Nat} (h : n * 2 ^ lo < 2 ^ 24) : opOf (place n lo) = 0 := by
  have hs : (BitVec.ofNat 32 n <<< lo).toNat < 2 ^ 24 := by
    simp only [BitVec.toNat_shiftLeft, BitVec.toNat_ofNat, Nat.shiftLeft_eq]
    refine lt_of_le_of_lt (Nat.mod_le _ _) (lt_of_le_of_lt (Nat.mul_le_mul_right _ (Nat.mod_le _ _)) h)
  simp only [opOf, fieldOf, place, Nat.shiftRight_eq_div_pow]
  rw [Nat.div_eq_of_lt hs, Nat.zero_mod]

end Sys2Proof
end

