-- ==== Sys2Proof/Laws/Memory.lean ====
section
/-! SUPPORT. The laws of the delay-sample memory: a read after a write, what a write leaves alone, and that every memory
operation keeps the canonical form. -/

namespace Sys2Proof.Machine.Memory

@[simp] theorem read_nil (a : Nat) : read [] a = unlistedSample := rfl

theorem wf_nil : wf [] := ⟨List.Pairwise.nil, by simp⟩

/-! ### erase -/

theorem read_filter_of_keep (p : Nat × F32 → Bool) (m : Memory) (a : Nat) (h : ∀ c : Nat × F32, c.1 = a → p c = true) :
    read (m.filter p) a = read m a := by
  induction m with
  | nil => rfl
  | cons c m ih =>
    by_cases hp : p c = true
    · rw [List.filter_cons_of_pos hp]
      by_cases hc : c.1 = a
      · simp [read, hc]
      · simp [read, hc, ih]
    · rw [List.filter_cons_of_neg hp]
      have hc : c.1 ≠ a := fun e => hp (h c e)
      simp [read, hc, ih]

theorem read_filter_of_drop (p : Nat × F32 → Bool) (m : Memory) (a : Nat) (h : ∀ c : Nat × F32, c.1 = a → p c = false) :
    read (m.filter p) a = unlistedSample := by
  induction m with
  | nil => rfl
  | cons c m ih =>
    by_cases hp : p c = true
    · rw [List.filter_cons_of_pos hp]
      have hc : c.1 ≠ a := fun e => by simp [h c e] at hp
      simp [read, hc, ih]
    · rw [List.filter_cons_of_neg hp, ih]

theorem read_erase_same (m : Memory) (a : Nat) : read (erase m a) a = unlistedSample :=
  read_filter_of_drop _ m a (fun c hc => by simp [hc])

theorem read_erase_other (m : Memory) {a b : Nat} (h : b ≠ a) : read (erase m a) b = read m b :=
  read_filter_of_keep _ m b (fun c hc => by simp [hc, h])

/-! ### insert -/

theorem read_insert_other (m : Memory) {a b : Nat} (x : F32) (h : b ≠ a) : read (insert m a x) b = read m b := by
  induction m with
  | nil => simp [insert, read, Ne.symm h]
  | cons c m ih =>
    unfold insert
    split
    · simp [read, Ne.symm h]
    · simp only [read, ih]

theorem read_insert_same (m : Memory) (a : Nat) (x : F32) (h : ∀ c ∈ m, c.1 ≠ a) : read (insert m a x) a = x := by
  induction m with
  | nil => simp [insert, read]
  | cons c m ih =>
    unfold insert
    split
    · simp [read]
    · have hc : c.1 ≠ a := h c (by simp)
      simp only [read, hc, if_false]
      exact ih (fun d hd => h d (by simp [hd]))

theorem mem_insert (m : Memory) (a : Nat) (x : F32) (c : Nat × F32) : c ∈ insert m a x ↔ c = (a, x) ∨ c ∈ m := by
  induction m with
  | nil => simp [insert]
  | cons d m ih =>
    unfold insert
    split
    · simp
    · simp only [List.mem_cons, ih]
      tauto

theorem sorted_insert (m : Memory) (a : Nat) (x : F32) (hs : m.Pairwise (fun a b => a.1 < b.1))
    (h : ∀ c ∈ m, c.1 ≠ a) : (insert m a x).Pairwise (fun a b => a.1 < b.1) := by
  induction m with
  | nil => simp [insert]
  | cons d m ih =>
    unfold insert
    rw [List.pairwise_cons] at hs
    split
    · rename_i hlt
      refine List.pairwise_cons.2 ⟨?_, List.pairwise_cons.2 hs⟩
      intro c hc
      rcases List.mem_cons.1 hc with rfl | hc
      · exact hlt
      · exact Nat.lt_trans hlt (hs.1 c hc)
    · rename_i hnlt
      have hd : d.1 ≠ a := h d (by simp)
      refine List.pairwise_cons.2 ⟨?_, ih hs.2 (fun c hc => h c (by simp [hc]))⟩
      intro c hc
      rcases (mem_insert m a x c).1 hc with rfl | hc
      · show d.1 < a
        omega
      · exact hs.1 c hc

/-! ### write -/

theorem erase_ne (m : Memory) (a : Nat) : ∀ c ∈ erase m a, c.1 ≠ a := by
  intro c hc
  simpa using (List.mem_filter.1 hc).2

/-- A read after a write to the same word gives the value written, in every state of the list. -/
@[simp] theorem read_write_same (m : Memory) (a : Nat) (x : F32) : read (write m a x) a = x := by
  unfold write
  split
  · rename_i hx
    rw [read_erase_same, hx]
  · exact read_insert_same _ _ _ (erase_ne m a)

/-- A write leaves every other word alone. -/
theorem read_write_other (m : Memory) {a b : Nat} (x : F32) (h : b ≠ a) : read (write m a x) b = read m b := by
  unfold write
  split
  · exact read_erase_other m h
  · rw [read_insert_other _ _ h, read_erase_other m h]

theorem mem_write (m : Memory) (a : Nat) (x : F32) (c : Nat × F32) (h : c ∈ write m a x) : c = (a, x) ∨ c ∈ m := by
  unfold write at h
  split at h
  · exact .inr (List.mem_filter.1 h).1
  · rcases (mem_insert _ _ _ _).1 h with h | h
    · exact .inl h
    · exact .inr (List.mem_filter.1 h).1

theorem wf_filter (p : Nat × F32 → Bool) {m : Memory} (h : wf m) : wf (m.filter p) :=
  ⟨h.1.filter p, fun c hc => h.2 c (List.mem_filter.1 hc).1⟩

/-- A write keeps the canonical form. -/
theorem wf_write {m : Memory} (h : wf m) (a : Nat) (x : F32) : wf (write m a x) := by
  unfold write
  split
  · exact wf_filter _ h
  · rename_i hx
    refine ⟨sorted_insert _ _ _ (wf_filter _ h).1 (erase_ne m a), ?_⟩
    intro c hc
    rcases (mem_insert _ _ _ _).1 hc with rfl | hc
    · exact hx
    · exact (wf_filter _ h).2 c hc

/-! ### clearRange -/

theorem read_clearRange_inside (m : Memory) {base n a : Nat} (h : base ≤ a ∧ a < base + n) :
    read (clearRange m base n) a = unlistedSample :=
  read_filter_of_drop _ m a (fun c hc => by simp [hc, h.1, h.2])

theorem read_clearRange_outside (m : Memory) {base n a : Nat} (h : ¬(base ≤ a ∧ a < base + n)) :
    read (clearRange m base n) a = read m a :=
  read_filter_of_keep _ m a (fun c hc => by
    subst hc
    by_cases h1 : base ≤ c.1 <;> by_cases h2 : c.1 < base + n <;> simp_all)

/-- Clearing a range keeps the canonical form. -/
theorem wf_clearRange {m : Memory} (h : wf m) (base n : Nat) : wf (clearRange m base n) := wf_filter _ h

/-! ### Canonical memories that read alike are equal -/

theorem read_of_mem {m : Memory} (h : wf m) {c : Nat × F32} (hc : c ∈ m) : read m c.1 = c.2 := by
  induction m with
  | nil => simp at hc
  | cons d m ih =>
    have hs := List.pairwise_cons.1 h.1
    rcases List.mem_cons.1 hc with rfl | hc
    · simp [read]
    · have hne : d.1 ≠ c.1 := Nat.ne_of_lt (hs.1 c hc)
      simp only [read, hne, if_false]
      exact ih ⟨hs.2, fun e he => h.2 e (by simp [he])⟩ hc

theorem mem_of_read {m : Memory} {a : Nat} (h : read m a ≠ unlistedSample) : (a, read m a) ∈ m := by
  induction m with
  | nil => simp at h
  | cons d m ih =>
    by_cases hd : d.1 = a
    · subst hd
      simp [read]
    · simp only [read, hd, if_false] at h ⊢
      exact List.mem_cons_of_mem _ (ih h)

/-- Equal memories are equal data. -/
theorem ext_of_read {m n : Memory} (hm : wf m) (hn : wf n) (h : ∀ a, read m a = read n a) : m = n := by
  have sub : ∀ {p q : Memory}, wf p → (∀ a, read p a = read q a) → ∀ c ∈ p, c ∈ q := by
    intro p q hp hpq c hc
    have hr := read_of_mem hp hc
    have hne : read q c.1 ≠ unlistedSample := by
      rw [← hpq, hr]
      exact hp.2 c hc
    have := mem_of_read hne
    rwa [← hpq, hr] at this
  have nodup : ∀ {p : Memory}, wf p → p.Nodup := fun hp =>
    hp.1.imp (fun {a b} hab => fun e => by subst e; exact Nat.lt_irrefl _ hab)
  have perm : m.Perm n :=
    (List.perm_ext_iff_of_nodup (nodup hm) (nodup hn)).2 fun c => ⟨sub hm h c, sub hn (fun a => (h a).symm) c⟩
  exact perm.eq_of_pairwise (fun a b _ _ hab hba => absurd (Nat.lt_trans hab hba) (Nat.lt_irrefl _)) hm.1 hn.1

end Sys2Proof.Machine.Memory
end

