-- ==== Sys2Proof/Laws/Delay.lean ====
section
/-! SUPPORT. What the delay-line functions do to the memory and the lines, one lemma per part, and that they keep the pool in
bounds (41_delay_alloc R401–R405, R412). -/

namespace Sys2Proof.Machine

/-- C is a power of two between 2 and 2^24 (00_scope R8). -/
theorem cap_eq_pow (c : Cfg) : ∃ k, k < 24 ∧ c.val.cap = 2 ^ (k + 1) := by
  have h := c.property
  simp only [Config.Params.valid, Bool.and_eq_true, List.any_eq_true, List.mem_range, beq_iff_eq] at h
  exact h.1.1.1.1.1.1.2

theorem cap_pos (c : Cfg) : 0 < c.val.cap := by
  obtain ⟨k, -, h⟩ := cap_eq_pow c
  rw [h]
  exact Nat.two_pow_pos _

theorem cap_le (c : Cfg) : c.val.cap ≤ 2 ^ 24 := by
  obtain ⟨k, hk, h⟩ := cap_eq_pow c
  rw [h]
  exact Nat.pow_le_pow_right (by decide) (by omega)

theorem cap_ge (c : Cfg) : 2 ≤ c.val.cap := by
  obtain ⟨k, hk, h⟩ := cap_eq_pow c
  rw [h, Nat.pow_succ]
  have := Nat.two_pow_pos k
  omega

theorem nLines_le (c : Cfg) : c.val.nLines ≤ 255 := by
  have h := c.property
  simp only [Config.Params.valid, Bool.and_eq_true, decide_eq_true_eq] at h
  exact h.1.1.1.1.2

namespace DelayPool

theorem index_lt {cap : Nat} (h : 0 < cap) (i : Int) : index cap i < cap := by
  unfold index
  have h1 := Int.emod_nonneg i (show (cap : Int) ≠ 0 by omega)
  have h2 := Int.emod_lt_of_pos i (show (0 : Int) < cap by omega)
  omega

theorem index_ofNat (cap n : Nat) : index cap (n : Int) = n % cap := by
  unfold index
  omega

/-- The words of a line are apart from those of every other. -/
theorem address_lt {cap l n i : Nat} (hl : l < n) (hi : i < cap) : address cap l i < n * cap := by
  unfold address
  calc l * cap + i < l * cap + cap := by omega
    _ = (l + 1) * cap := by rw [Nat.add_mul, Nat.one_mul]
    _ ≤ n * cap := Nat.mul_le_mul_right _ hl

theorem line_set_same {d : DelayPool} {l : Nat} (x : DelayLine) (h : l < d.lines.length) :
    (d.lines.set l x).getD l ⟨0, 0⟩ = x := by
  simp [List.getD_eq_getElem?_getD, List.getElem?_set_self h]

theorem line_set_other {d : DelayPool} {l k : Nat} (x : DelayLine) (h : k ≠ l) :
    (d.lines.set l x).getD k ⟨0, 0⟩ = d.lines.getD k ⟨0, 0⟩ := by
  simp [List.getD_eq_getElem?_getD, List.getElem?_set_ne (Ne.symm h)]

/-! ### Push -/

theorem push_line_same {cap : Nat} {d : DelayPool} {l : Nat} (x : F32) (h : l < d.lines.length) :
    (push cap d l x).line l = ⟨((d.line l).w + 1) % cap, (d.line l).len⟩ := by
  show (d.lines.set l _).getD l ⟨0, 0⟩ = _
  rw [line_set_same _ h]
  have : index cap ((d.line l).w + 1 : Int) = ((d.line l).w + 1) % cap := index_ofNat cap _
  rw [this]

theorem push_line_other {cap : Nat} {d : DelayPool} {l k : Nat} (x : F32) (h : k ≠ l) :
    (push cap d l x).line k = d.line k := line_set_other _ h

@[simp] theorem push_lines_length (cap : Nat) (d : DelayPool) (l : Nat) (x : F32) :
    (push cap d l x).lines.length = d.lines.length := List.length_set

theorem push_read_same (cap : Nat) (d : DelayPool) (l : Nat) (x : F32) :
    (push cap d l x).mem.read (address cap l (d.line l).w) = x := Memory.read_write_same _ _ _

theorem push_read_other {cap : Nat} {d : DelayPool} {l a : Nat} (x : F32) (h : a ≠ address cap l (d.line l).w) :
    (push cap d l x).mem.read a = d.mem.read a := Memory.read_write_other _ _ h

/-! ### SetDelay -/

theorem setDelay_line_same {cap : Nat} {d : DelayPool} {l : Nat} (n : Int) (h : l < d.lines.length) :
    (setDelay cap d l n).line l = ⟨(d.line l).w, (Fp.clampInt n 0 ((cap : Int) - 1)).toNat⟩ := line_set_same _ h

theorem setDelay_line_other {cap : Nat} {d : DelayPool} {l k : Nat} (n : Int) (h : k ≠ l) :
    (setDelay cap d l n).line k = d.line k := line_set_other _ h

@[simp] theorem setDelay_lines_length (cap : Nat) (d : DelayPool) (l : Nat) (n : Int) :
    (setDelay cap d l n).lines.length = d.lines.length := List.length_set

@[simp] theorem setDelay_mem (cap : Nat) (d : DelayPool) (l : Nat) (n : Int) : (setDelay cap d l n).mem = d.mem := rfl

/-! ### Clear -/

theorem clear_line_same {cap : Nat} {d : DelayPool} {l : Nat} (h : l < d.lines.length) :
    (clear cap d l).line l = ⟨0, (d.line l).len⟩ := line_set_same _ h

theorem clear_line_other {cap : Nat} {d : DelayPool} {l k : Nat} (h : k ≠ l) :
    (clear cap d l).line k = d.line k := line_set_other _ h

@[simp] theorem clear_lines_length (cap : Nat) (d : DelayPool) (l : Nat) :
    (clear cap d l).lines.length = d.lines.length := List.length_set

theorem clear_read_inside {cap : Nat} (d : DelayPool) {l i : Nat} (h : i < cap) :
    (clear cap d l).mem.read (address cap l i) = unlistedSample :=
  Memory.read_clearRange_inside _ (by unfold address; omega)

theorem clear_read_outside {cap : Nat} (d : DelayPool) {l a : Nat} (h : ¬(l * cap ≤ a ∧ a < l * cap + cap)) :
    (clear cap d l).mem.read a = d.mem.read a :=
  Memory.read_clearRange_outside _ (by unfold address; simpa using h)

/-! ### What every function keeps -/

/-- The pool is sound: canonical memory inside n lines of cap words, and every cursor and length below cap. -/
structure Sound (cap n : Nat) (d : DelayPool) : Prop where
  canonical : d.mem.wf
  lines : d.lines.length = n
  cursors : ∀ x ∈ d.lines, x.w < cap ∧ x.len < cap
  samples : ∀ c ∈ d.mem, c.1 < n * cap

theorem Sound.line {cap n : Nat} {d : DelayPool} (h : d.Sound cap n) {l : Nat} (hl : l < n) :
    (d.line l).w < cap ∧ (d.line l).len < cap := by
  have hl' : l < d.lines.length := by rw [h.lines]; exact hl
  have : d.line l = d.lines[l] := by simp [DelayPool.line, List.getD_eq_getElem?_getD, hl']
  rw [this]
  exact h.cursors _ (List.getElem_mem hl')

theorem clampInt_bounds {n lo hi : Int} (h : lo ≤ hi) : lo ≤ Fp.clampInt n lo hi ∧ Fp.clampInt n lo hi ≤ hi := by
  unfold Fp.clampInt
  split
  · exact ⟨le_refl _, h⟩
  · split <;> omega

/-- The integer clamp in words of max and min. -/
theorem clampInt_eq {n lo hi : Int} (h : lo ≤ hi) : Fp.clampInt n lo hi = max lo (min n hi) := by
  unfold Fp.clampInt
  split
  · omega
  · split <;> omega

theorem Sound.set {cap n : Nat} {d : DelayPool} (h : d.Sound cap n) {m : Memory} (l : Nat) {x : DelayLine}
    (hm : m.wf) (hs : ∀ c ∈ m, c.1 < n * cap) (hx : x.w < cap ∧ x.len < cap) :
    Sound cap n { mem := m, lines := d.lines.set l x } where
  canonical := hm
  lines := by rw [← h.lines]; exact List.length_set
  cursors := by
    intro y hy
    rcases List.mem_or_eq_of_mem_set hy with hy | rfl
    · exact h.cursors y hy
    · exact hx
  samples := hs

theorem Sound.push {cap n : Nat} {d : DelayPool} (h : d.Sound cap n) {l : Nat} (hl : l < n) (x : F32) :
    (d.push cap l x).Sound cap n := by
  have hw := h.line hl
  have hi : index cap ((d.line l).w + 1 : Int) < cap := index_lt (Nat.lt_of_le_of_lt (Nat.zero_le _) hw.1) _
  refine h.set l (Memory.wf_write h.canonical _ _) ?_ ⟨hi, hw.2⟩
  intro c hc
  rcases Memory.mem_write _ _ _ _ hc with rfl | hc
  · exact address_lt hl hw.1
  · exact h.samples c hc

theorem Sound.setDelay {cap n : Nat} {d : DelayPool} (h : d.Sound cap n) {l : Nat} (hl : l < n) (k : Int) :
    (d.setDelay cap l k).Sound cap n := by
  have hw := h.line hl
  have hb := clampInt_bounds (n := k) (show (0 : Int) ≤ (cap : Int) - 1 by omega)
  refine h.set l h.canonical h.samples ⟨hw.1, ?_⟩
  show (Fp.clampInt k 0 ((cap : Int) - 1)).toNat < cap
  omega

theorem Sound.clear {cap n : Nat} {d : DelayPool} (h : d.Sound cap n) {l : Nat} (hl : l < n) :
    (d.clear cap l).Sound cap n := by
  have hw := h.line hl
  exact h.set l (Memory.wf_clearRange h.canonical _ _)
    (fun c hc => h.samples c (List.mem_filter.1 hc).1) ⟨Nat.lt_of_le_of_lt (Nat.zero_le _) hw.1, hw.2⟩

end DelayPool
end Sys2Proof.Machine
end

