-- ==== Sys2Proof/Laws/Operands.lean ====
section
/-! SUPPORT. What each check answers, so that no proof about a command unfolds it. -/

namespace Sys2Proof.Machine

@[simp] theorem familyOf_zero : familyOf 0 = some .string := rfl
@[simp] theorem familyOf_one : familyOf 1 = some .reed := rfl
@[simp] theorem familyOf_two : familyOf 2 = some .bow := rfl

/-- FAM 3 and above is no family. -/
theorem familyOf_eq_none {n : Nat} : familyOf n = none ↔ 3 ≤ n := by
  match n with
  | 0 => simp
  | 1 => simp
  | 2 => simp
  | n + 3 => simp [familyOf]

theorem familyOf_eq_some {n : Nat} {f : Family} :
    familyOf n = some f ↔ (n = 0 ∧ f = .string) ∨ (n = 1 ∧ f = .reed) ∨ (n = 2 ∧ f = .bow) := by
  match n with
  | 0 => simp [eq_comm]
  | 1 => simp [eq_comm]
  | 2 => simp [eq_comm]
  | n + 3 => simp [familyOf]

namespace State

theorem diagnostic_stop {s : State} (h : s.mode = .stop) (pass : State) : s.diagnostic pass = pass := by
  simp [diagnostic, h]

theorem diagnostic_run {s : State} (h : s.mode = .run) (pass : State) : s.diagnostic pass = s.reject .illegalState := by
  simp [diagnostic, h]

theorem onLine_inside {s : State} {l : Nat} (h : l < s.nLines) (pass : State) : s.onLine l pass = pass := by
  simp [onLine, h]

theorem onLine_outside {s : State} {l : Nat} (h : s.nLines ≤ l) (pass : State) :
    s.onLine l pass = s.reject .illegalArg := by
  simp [onLine, Nat.not_lt.2 h]

theorem onFamily_some {s : State} {n : Nat} {f : Family} (h : familyOf n = some f) (pass : Family → State) :
    s.onFamily n pass = pass f := by
  simp [onFamily, h]

theorem onFamily_none {s : State} {n : Nat} (h : familyOf n = none) (pass : Family → State) :
    s.onFamily n pass = s.reject .illegalArg := by
  simp [onFamily, h]

theorem onStringFamily_string (s : State) (pass : State) : s.onStringFamily 0 pass = pass := by
  simp [onStringFamily]

theorem onStringFamily_other {s : State} {n : Nat} (h : n ≠ 0) (pass : State) :
    s.onStringFamily n pass = s.reject .illegalArg := by
  simp [onStringFamily, h]

theorem onSlot_assigned {s : State} {slot : Fin 128} {row : Config.ParamRow}
    (h : s.cfg.val.table[slot.val]? = some row) (pass : Config.ParamRow → State) : s.onSlot slot pass = pass row := by
  simp [onSlot, h]

theorem onSlot_unassigned {s : State} {slot : Fin 128} (h : s.cfg.val.table.length ≤ slot)
    (pass : Config.ParamRow → State) : s.onSlot slot pass = s.reject .illegalArg := by
  simp [onSlot, List.getElem?_eq_none h]

/-- Every check answers the passing state or the refusal with its own code. -/
theorem diagnostic_cases (s pass : State) :
    (s.mode = .stop ∧ s.diagnostic pass = pass) ∨ (s.mode = .run ∧ s.diagnostic pass = s.reject .illegalState) := by
  unfold diagnostic
  cases s.mode <;> simp

theorem onLine_cases (s : State) (l : Nat) (pass : State) :
    (l < s.nLines ∧ s.onLine l pass = pass) ∨ (s.nLines ≤ l ∧ s.onLine l pass = s.reject .illegalArg) := by
  rcases Nat.lt_or_ge l s.nLines with h | h
  · exact .inl ⟨h, onLine_inside h pass⟩
  · exact .inr ⟨h, onLine_outside h pass⟩

theorem onFamily_cases (s : State) (n : Nat) (pass : Family → State) :
    (∃ f, familyOf n = some f ∧ s.onFamily n pass = pass f) ∨
      (3 ≤ n ∧ s.onFamily n pass = s.reject .illegalArg) := by
  cases h : familyOf n with
  | some f => exact .inl ⟨f, rfl, onFamily_some h pass⟩
  | none => exact .inr ⟨familyOf_eq_none.1 h, onFamily_none h pass⟩

theorem onStringFamily_cases (s : State) (n : Nat) (pass : State) :
    (n = 0 ∧ s.onStringFamily n pass = pass) ∨ (n ≠ 0 ∧ s.onStringFamily n pass = s.reject .illegalArg) := by
  by_cases h : n = 0
  · exact .inl ⟨h, by simp [onStringFamily, h]⟩
  · exact .inr ⟨h, onStringFamily_other h pass⟩

theorem onSlot_cases (s : State) (slot : Fin 128) (pass : Config.ParamRow → State) :
    (∃ row, s.cfg.val.table[slot.val]? = some row ∧ s.onSlot slot pass = pass row) ∨
      (s.cfg.val.table.length ≤ slot ∧ s.onSlot slot pass = s.reject .illegalArg) := by
  cases h : s.cfg.val.table[slot.val]? with
  | some row => exact .inl ⟨row, rfl, onSlot_assigned h pass⟩
  | none => exact .inr ⟨List.getElem?_eq_none_iff.1 h, onSlot_unassigned (List.getElem?_eq_none_iff.1 h) pass⟩

end State
end Sys2Proof.Machine
end

