-- ==== Sys2Proof/Laws/Exec.lean ====
section
/-! SUPPORT. Everything a command can do to the state, said once (30_encoding R310, 60_exceptions R905, R906): a proof about
every command cites `exec_cases` and does not unfold `exec`. -/

namespace Sys2Proof.Machine

/-- Two voices that differ in their filters and noise generator only, and whose dispersion chains have at most 4 stages
where the first one's has. -/
structure FiltersOnly (V W : Voice) : Prop where
  same : W = { V with tune := W.tune, loss := W.loss, disp := W.disp, noise := W.noise }
  stages : V.disp.m ≤ 4 → W.disp.m ≤ 4

/-- What a command that succeeds does, before RESULT and LAST_ERR are written. -/
inductive CommandEffect (s : State) : State → Prop
  /-- Requests, mode and sticky flags: a control command of UNIT 0. -/
  | control (req : Vector NoteReq 128) (instrReq : InstrReq) (fsaReq stopReq : Bool) (mode : Mode)
      (allocFail cmdErr : Bool) (hm : mode = s.mode ∨ mode = .run) :
      CommandEffect s { s with
        req := req, instrReq := instrReq, fsaReq := fsaReq, stopReq := stopReq, mode := mode,
        allocFail := allocFail, cmdErr := cmdErr }
  /-- A parameter mutation: the clamped value is stored. -/
  | param (slot : Fin 128) (row : Config.ParamRow) (new : Int) (dirty : Vector Word 4)
      (hrow : s.cfg.val.table[slot.val]? = some row) :
      CommandEffect s { s with
        raw := s.raw.set slot (BitVec.ofInt 32 (Fp.clampInt new row.minVal row.maxVal)), dirty := dirty }
  /-- A command that reads only. -/
  | read : CommandEffect s s
  | push (l : Nat) (x : F32) (hl : l < s.nLines) (hm : s.mode = .stop) :
      CommandEffect s { s with delay := s.delay.push s.cap l x }
  | setDelay (l : Nat) (n : Int) (hl : l < s.nLines) (hm : s.mode = .stop) :
      CommandEffect s { s with delay := s.delay.setDelay s.cap l n }
  | clear (l : Nat) (hl : l < s.nLines) (hm : s.mode = .stop) :
      CommandEffect s { s with delay := s.delay.clear s.cap l }
  | get (hm : s.mode = .stop) : CommandEffect s { s with alloc := (s.alloc.pop .host).2 }
  | release (l : Nat) (hl : l < s.nLines) (ho : s.alloc.ownerOf l = .host) (hm : s.mode = .stop) :
      CommandEffect s { s with alloc := s.alloc.pushAvail l }
  /-- A filter or noise command on one voice. -/
  | voice (f : Family) (v : Fin 8) (W : Voice) (hW : FiltersOnly (s.voice f v) W) (hm : s.mode = .stop) :
      CommandEffect s (s.setVoice f v W)

/-- A refused command leaves reject; any other leaves its effect, RESULT and LAST_ERR. -/
def CommandOutcome (s t : State) : Prop :=
  (∃ c, c ≠ .ok ∧ t = s.reject c) ∨ ∃ u r, CommandEffect s u ∧ t = u.accept r

theorem outcome_diagnostic {s pass t : State} (h : t = s.diagnostic pass)
    (hp : s.mode = .stop → CommandOutcome s pass) : CommandOutcome s t := by
  rcases s.diagnostic_cases pass with ⟨hm, e⟩ | ⟨-, e⟩
  · rw [h, e]
    exact hp hm
  · exact .inl ⟨_, by decide, h.trans e⟩

theorem outcome_line {s pass : State} {l : Nat} (hp : l < s.nLines → CommandOutcome s pass) :
    CommandOutcome s (s.onLine l pass) := by
  rcases s.onLine_cases l pass with ⟨hl, e⟩ | ⟨-, e⟩
  · rw [e]
    exact hp hl
  · exact .inl ⟨_, by decide, e⟩

theorem outcome_family {s : State} {n : Nat} {pass : Family → State} (hp : ∀ f, CommandOutcome s (pass f)) :
    CommandOutcome s (s.onFamily n pass) := by
  rcases s.onFamily_cases n pass with ⟨f, -, e⟩ | ⟨-, e⟩
  · exact e ▸ hp f
  · exact .inl ⟨_, by decide, e⟩

theorem outcome_string {s : State} {n : Nat} {pass : State} (hp : CommandOutcome s pass) :
    CommandOutcome s (s.onStringFamily n pass) := by
  rcases s.onStringFamily_cases n pass with ⟨-, e⟩ | ⟨-, e⟩
  · rw [e]
    exact hp
  · exact .inl ⟨_, by decide, e⟩

theorem outcome_slot {s : State} {slot : Fin 128} {pass : Config.ParamRow → State}
    (hp : ∀ row, s.cfg.val.table[slot.val]? = some row → CommandOutcome s (pass row)) :
    CommandOutcome s (s.onSlot slot pass) := by
  rcases s.onSlot_cases slot pass with ⟨row, hr, e⟩ | ⟨-, e⟩
  · exact e ▸ hp row hr
  · exact .inl ⟨_, by decide, e⟩

theorem outcome_mutate (s : State) {slot : Fin 128} {row : Config.ParamRow} (new : Int)
    (hr : s.cfg.val.table[slot.val]? = some row) : CommandOutcome s (mutate s slot row new) :=
  .inr ⟨_, _, .param slot row new _ hr, rfl⟩

theorem lfDesign_ty (p : Config.Params) (F : Loss) : (lfDesign p F).ty = F.ty := by
  unfold lfDesign
  cases F.ty <;> rfl

theorem dpStage_m (Dx : Dispersion × F32) (k : Fin 4) : (dpStage Dx k).1.m = Dx.1.m := rfl

theorem dpFold_m (ks : List (Fin 4)) (Dx : Dispersion × F32) : (ks.foldl dpStage Dx).1.m = Dx.1.m := by
  induction ks generalizing Dx with
  | nil => rfl
  | cons k ks ih => rw [List.foldl_cons, ih, dpStage_m]

/-- A step of the chain keeps its stage count. -/
@[simp] theorem dpStep_m (D : Dispersion) (x : F32) : (dpStep D x).1.m = D.m := by
  unfold dpStep
  split
  · rfl
  · exact dpFold_m _ _

@[simp] theorem dpRecompute_m (D : Dispersion) : (dpRecompute D).m = D.m := by
  unfold dpRecompute
  split <;> rfl

@[simp] theorem dpSetGD_m (D : Dispersion) (g : F32) : (dpSetGD D g).m = D.m := by simp [dpSetGD]

@[simp] theorem dpSetStages_m (D : Dispersion) (m : Nat) : (dpSetStages D m).m = m := by simp [dpSetStages]

/-- Everything a command can do. -/
theorem exec_cases {i : Instr} {s t : State} (h : exec i s = .next t) : CommandOutcome s t := by
  have voice : ∀ (f : Family) (v : Fin 8) (W : Voice) (r : Word), s.mode = .stop → FiltersOnly (s.voice f v) W →
      CommandOutcome s ((s.setVoice f v W).accept r) :=
    fun f v W r hm hW => .inr ⟨_, _, .voice f v W hW hm, rfl⟩
  have read : ∀ r, CommandOutcome s (s.accept r) := fun r => .inr ⟨_, _, .read, rfl⟩
  cases i <;> simp only [exec] at h <;> injection h with h
  case nop => exact h ▸ read _
  case readStatus => exact h ▸ read _
  case noteOn | noteOff | forceStopAll | clearStatus | engineStop =>
    exact .inr ⟨_, _, .control _ _ _ _ _ _ _ (.inl rfl), h.symm⟩
  case engineRun => exact .inr ⟨_, _, .control _ _ _ _ _ _ _ (.inr rfl), h.symm⟩
  case setInstrument => exact h ▸ outcome_family fun f => .inr ⟨_, _, .control _ _ _ _ _ _ _ (.inl rfl), rfl⟩
  case paramSet | paramAdd | paramReset => exact h ▸ outcome_slot fun row hr => outcome_mutate s _ hr
  case paramGet => exact h ▸ outcome_slot fun row _ => read _
  case dlPush | dlProcess =>
    exact outcome_diagnostic h.symm fun hm => outcome_line fun hl => .inr ⟨_, _, .push _ _ hl hm, rfl⟩
  case dlGetLast => exact outcome_diagnostic h.symm fun _ => outcome_line fun _ => read _
  case dlSetDelay =>
    exact outcome_diagnostic h.symm fun hm => outcome_line fun hl => .inr ⟨_, _, .setDelay _ _ hl hm, rfl⟩
  case dlClear =>
    exact outcome_diagnostic h.symm fun hm => outcome_line fun hl => .inr ⟨_, _, .clear _ hl hm, rfl⟩
  case allocGet => exact outcome_diagnostic h.symm fun hm => .inr ⟨_, _, .get hm, rfl⟩
  case allocRelease l =>
    refine outcome_diagnostic h.symm fun hm => outcome_line fun hl => ?_
    split
    · rename_i ho
      exact .inr ⟨_, _, .release _ hl ho hm, rfl⟩
    · exact .inl ⟨_, by decide, rfl⟩
  case lossPhaseDelay | dispPhaseDelay => exact outcome_diagnostic h.symm fun _ => outcome_family fun _ => read _
  case tfSetDelay | tfProcess | lossSetCutoff | lossProcess =>
    exact outcome_diagnostic h.symm fun hm => outcome_family fun f => voice f _ _ _ hm ⟨rfl, id⟩
  case lossSetType =>
    refine outcome_diagnostic h.symm fun hm => outcome_family fun f => ?_
    split
    · exact .inl ⟨_, by decide, rfl⟩
    · exact voice f _ _ _ hm ⟨rfl, id⟩
  case dispSetGD =>
    exact outcome_diagnostic h.symm fun hm => outcome_family fun f => voice f _ _ _ hm ⟨rfl, fun hv => by simpa using hv⟩
  case dispSetStages =>
    refine outcome_diagnostic h.symm fun hm => outcome_family fun f => ?_
    dsimp only
    split
    · exact .inl ⟨_, by decide, rfl⟩
    · exact voice f _ _ _ hm ⟨rfl, fun _ => by simp only [dpSetStages_m]; omega⟩
  case dispProcess =>
    exact outcome_diagnostic h.symm fun hm => outcome_family fun f => voice f _ _ _ hm ⟨rfl, fun hv => by simpa using hv⟩
  case noiseSeed | noiseNext =>
    exact outcome_diagnostic h.symm fun hm => outcome_string (voice _ _ _ _ hm ⟨rfl, id⟩)

/-- What a HOST step can do: consume the words of one command, or nothing while none is complete. -/
theorem hostStep_cases {s t : State} (h : s.hostStep = .next t) :
    t = s ∨ ∃ rest, CommandOutcome { s with port := rest } t := by
  unfold State.hostStep at h
  split at h
  · exact .inr ⟨_, exec_cases h⟩
  · injection h with h
    exact .inr ⟨_, .inl ⟨_, by decide, h.symm⟩⟩
  · injection h with h
    exact .inl h.symm

/-- What a step can do: a HOST step, an ENGINE step or the reset, once the order of moves has named the agent. -/
theorem step_cases {s t : State} (h : step s = .next t) :
    ∃ sched, let u : State := { s with sched := sched }
      (u.hostStep = .next t) ∨ t = u.engineStep ∨ t = u.resetStep := by
  have agent : ∀ (u : State) (a : Agent), u.agentStep a = .next t →
      u.hostStep = .next t ∨ t = u.engineStep ∨ t = u.resetStep := by
    intro u a ha
    cases a
    · exact .inl ha
    · injection ha with ha
      exact .inr (.inl ha.symm)
    · injection ha with ha
      exact .inr (.inr ha.symm)
  unfold step at h
  split at h
  · rename_i a rest _
    exact ⟨rest, agent _ a h⟩
  · exact ⟨s.sched, agent _ _ h⟩

end Sys2Proof.Machine
end

