-- ==== Sys2Proof/Laws/PerInstr.lean ====
section
/-! SUPPORT. Per-instruction families: statements about every command as syntax, one lemma per constructor. -/

namespace Sys2Proof.Laws.HeaderFields

/-- The (UNIT, OP) of a command (30_encoding R311). -/
def opcode : Instr → Nat × Nat
  | .nop => (0, 0)
  | .noteOn _ _ _ => (0, 1)
  | .noteOff _ => (0, 2)
  | .setInstrument _ => (0, 3)
  | .forceStopAll => (0, 4)
  | .readStatus => (0, 5)
  | .clearStatus _ => (0, 6)
  | .engineStop => (0, 7)
  | .engineRun => (0, 8)
  | .paramSet _ _ => (1, 0)
  | .paramAdd _ _ _ => (1, 1)
  | .paramReset _ => (1, 2)
  | .paramGet _ => (1, 3)
  | .dlPush _ _ => (2, 0)
  | .dlGetLast _ => (2, 1)
  | .dlProcess _ _ => (2, 2)
  | .dlSetDelay _ _ => (2, 3)
  | .dlClear _ => (2, 4)
  | .allocGet => (3, 0)
  | .allocRelease _ => (3, 1)
  | .tfSetDelay _ _ _ => (4, 0)
  | .tfProcess _ _ _ => (4, 1)
  | .lossSetCutoff _ _ _ => (5, 0)
  | .lossSetType _ _ _ => (5, 1)
  | .lossProcess _ _ _ => (5, 2)
  | .lossPhaseDelay _ _ _ => (5, 3)
  | .dispSetGD _ _ _ => (6, 0)
  | .dispSetStages _ _ _ => (6, 1)
  | .dispProcess _ _ _ => (6, 2)
  | .dispPhaseDelay _ _ _ => (6, 3)
  | .noiseSeed _ _ _ => (7, 0)
  | .noiseNext _ _ => (7, 1)

/-- The first word that encodes a well-formed command holds its (UNIT, OP), and the length that this word alone gives is
the number of words (30_encoding R300, R301, R311, R312). -/
def Statement (i : Instr) : Prop :=
  i.wellFormed = true → ∀ w rest, encode i = w :: rest →
    (unitOf w, opOf w) = opcode i ∧ cmdLength w = (encode i).length

/-- The length table read at a known (UNIT, OP). -/
theorem length_of_header {w : Word} {u o : Nat} (hu : unitOf w = u) (ho : opOf w = o) :
    cmdLength w = if twoWordOps.contains (u, o) then 2 else 1 := by
  rw [cmdLength, hu, ho]

theorem unit_formatN (p : Word) (ch : Fin 16) (note vel : Fin 128) : unitOf (formatN p ch note vel) = unitOf p := by
  simp only [formatN, unitOf_or]
  rw [unitOf_place (by omega), unitOf_place (by omega), unitOf_place (by omega)]
  simp

theorem op_formatN (p : Word) (ch : Fin 16) (note vel : Fin 128) : opOf (formatN p ch note vel) = opOf p := by
  simp only [formatN, opOf_or]
  rw [opOf_place (by omega), opOf_place (by omega), opOf_place (by omega)]
  simp

theorem alt_le (alt : Bool) : alt.toNat * 2 ^ 8 < 2 ^ 24 := by cases alt <;> decide

theorem unit_formatS (p : Word) (slot : Fin 128) (alt : Bool) : unitOf (formatS p slot alt) = unitOf p := by
  simp only [formatS, unitOf_or]
  rw [unitOf_place (alt_le alt), unitOf_place (by omega)]
  simp

theorem op_formatS (p : Word) (slot : Fin 128) (alt : Bool) : opOf (formatS p slot alt) = opOf p := by
  simp only [formatS, opOf_or]
  rw [opOf_place (alt_le alt), opOf_place (by omega)]
  simp

theorem unit_formatL (p : Word) {line : Nat} (h : lineFits line = true) : unitOf (formatL p line) = unitOf p := by
  have hl : line < 2 ^ 8 := by simpa [lineFits] using h
  simp only [formatL, unitOf_or]
  rw [unitOf_place (by omega)]
  simp

theorem op_formatL (p : Word) {line : Nat} (h : lineFits line = true) : opOf (formatL p line) = opOf p := by
  have hl : line < 2 ^ 8 := by simpa [lineFits] using h
  simp only [formatL, opOf_or]
  rw [opOf_place (by omega)]
  simp

theorem unit_formatV (p : Word) {arg fam : Nat} (v : Fin 8) (ha : arg < 2 ^ 3) (h : famFits fam = true) :
    unitOf (formatV p arg fam v) = unitOf p := by
  have hf : fam < 2 ^ 2 := by simpa [famFits] using h
  simp only [formatV, unitOf_or]
  rw [unitOf_place (by omega), unitOf_place (by omega), unitOf_place (by omega)]
  simp

theorem op_formatV (p : Word) {arg fam : Nat} (v : Fin 8) (ha : arg < 2 ^ 3) (h : famFits fam = true) :
    opOf (formatV p arg fam v) = opOf p := by
  have hf : fam < 2 ^ 2 := by simpa [famFits] using h
  simp only [formatV, opOf_or]
  rw [opOf_place (by omega), opOf_place (by omega), opOf_place (by omega)]
  simp

theorem typeBit_lt (ty : Sys2Proof.Machine.LossType) : typeBit ty < 2 ^ 3 := by cases ty <;> decide

/-- From the two fields of the first word to the Statement's conclusion. -/
theorem of_header {i : Instr} {w0 : Word} {ws : List Word} {u o : Nat} (he : encode i = w0 :: ws)
    (hu : unitOf w0 = u) (ho : opOf w0 = o) (hop : opcode i = (u, o))
    (hl : (if twoWordOps.contains (u, o) then 2 else 1) = ws.length + 1) :
    ∀ w rest, encode i = w :: rest → (unitOf w, opOf w) = opcode i ∧ cmdLength w = (encode i).length := by
  intro w rest h
  rw [he] at h
  injection h with h1 h2
  subst h1
  refine ⟨by rw [hop, hu, ho], ?_⟩
  rw [he, length_of_header hu ho, hl, List.length_cons]

theorem nop : Statement (.nop) := fun _ =>
  of_header (u := 0) (o := 0) rfl rfl rfl rfl rfl

theorem noteOn (ch : Fin 16) (note : Fin 128) (vel : Fin 128) : Statement (.noteOn ch note vel) := fun _ =>
  of_header (u := 0) (o := 1) rfl (unit_formatN _ _ _ _) (op_formatN _ _ _ _) rfl rfl

theorem noteOff (note : Fin 128) : Statement (.noteOff note) := fun _ =>
  of_header (u := 0) (o := 2) rfl (unit_formatN _ _ _ _) (op_formatN _ _ _ _) rfl rfl

theorem setInstrument (fam : Nat) : Statement (.setInstrument fam) := fun h =>
  have hf : fam < 2 ^ 2 := by simpa [Instr.wellFormed, famFits] using h
  of_header (u := 0) (o := 3) rfl (by rw [unitOf_or, unitOf_place (by omega)]; rfl)
    (by rw [opOf_or, opOf_place (by omega)]; rfl) rfl rfl

theorem forceStopAll : Statement (.forceStopAll) := fun _ =>
  of_header (u := 0) (o := 4) rfl rfl rfl rfl rfl

theorem readStatus : Statement (.readStatus) := fun _ =>
  of_header (u := 0) (o := 5) rfl rfl rfl rfl rfl

theorem clearStatus (mask : Word) : Statement (.clearStatus mask) := fun _ =>
  of_header (u := 0) (o := 6) rfl rfl rfl rfl rfl

theorem engineStop : Statement (.engineStop) := fun _ =>
  of_header (u := 0) (o := 7) rfl rfl rfl rfl rfl

theorem engineRun : Statement (.engineRun) := fun _ =>
  of_header (u := 0) (o := 8) rfl rfl rfl rfl rfl

theorem paramSet (slot : Fin 128) (raw : Word) : Statement (.paramSet slot raw) := fun _ =>
  of_header (u := 1) (o := 0) rfl (unit_formatS _ _ _) (op_formatS _ _ _) rfl rfl

theorem paramAdd (slot : Fin 128) (alt : Bool) (delta : Word) : Statement (.paramAdd slot alt delta) := fun _ =>
  of_header (u := 1) (o := 1) rfl (unit_formatS _ _ _) (op_formatS _ _ _) rfl rfl

theorem paramReset (slot : Fin 128) : Statement (.paramReset slot) := fun _ =>
  of_header (u := 1) (o := 2) rfl (unit_formatS _ _ _) (op_formatS _ _ _) rfl rfl

theorem paramGet (slot : Fin 128) : Statement (.paramGet slot) := fun _ =>
  of_header (u := 1) (o := 3) rfl (unit_formatS _ _ _) (op_formatS _ _ _) rfl rfl

theorem dlPush (line : Nat) (x : Word) : Statement (.dlPush line x) := fun h =>
  of_header (u := 2) (o := 0) rfl (unit_formatL _ h) (op_formatL _ h) rfl rfl

theorem dlGetLast (line : Nat) : Statement (.dlGetLast line) := fun h =>
  of_header (u := 2) (o := 1) rfl (unit_formatL _ h) (op_formatL _ h) rfl rfl

theorem dlProcess (line : Nat) (x : Word) : Statement (.dlProcess line x) := fun h =>
  of_header (u := 2) (o := 2) rfl (unit_formatL _ h) (op_formatL _ h) rfl rfl

theorem dlSetDelay (line : Nat) (n : Word) : Statement (.dlSetDelay line n) := fun h =>
  of_header (u := 2) (o := 3) rfl (unit_formatL _ h) (op_formatL _ h) rfl rfl

theorem dlClear (line : Nat) : Statement (.dlClear line) := fun h =>
  of_header (u := 2) (o := 4) rfl (unit_formatL _ h) (op_formatL _ h) rfl rfl

theorem allocGet : Statement (.allocGet) := fun _ =>
  of_header (u := 3) (o := 0) rfl rfl rfl rfl rfl

theorem allocRelease (line : Nat) : Statement (.allocRelease line) := fun h =>
  of_header (u := 3) (o := 1) rfl (unit_formatL _ h) (op_formatL _ h) rfl rfl

theorem tfSetDelay (fam : Nat) (voice : Fin 8) (d : Word) : Statement (.tfSetDelay fam voice d) := fun h =>
  of_header (u := 4) (o := 0) rfl (unit_formatV _ _ (by decide) h) (op_formatV _ _ (by decide) h) rfl rfl

theorem tfProcess (fam : Nat) (voice : Fin 8) (x : Word) : Statement (.tfProcess fam voice x) := fun h =>
  of_header (u := 4) (o := 1) rfl (unit_formatV _ _ (by decide) h) (op_formatV _ _ (by decide) h) rfl rfl

theorem lossSetCutoff (fam : Nat) (voice : Fin 8) (x : Word) : Statement (.lossSetCutoff fam voice x) := fun h =>
  of_header (u := 5) (o := 0) rfl (unit_formatV _ _ (by decide) h) (op_formatV _ _ (by decide) h) rfl rfl

theorem lossSetType (fam : Nat) (voice : Fin 8) (ty : Sys2Proof.Machine.LossType) : Statement (.lossSetType fam voice ty) := fun h =>
  of_header (u := 5) (o := 1) rfl (unit_formatV _ _ (typeBit_lt ty) h) (op_formatV _ _ (typeBit_lt ty) h) rfl rfl

theorem lossProcess (fam : Nat) (voice : Fin 8) (x : Word) : Statement (.lossProcess fam voice x) := fun h =>
  of_header (u := 5) (o := 2) rfl (unit_formatV _ _ (by decide) h) (op_formatV _ _ (by decide) h) rfl rfl

theorem lossPhaseDelay (fam : Nat) (voice : Fin 8) (x : Word) : Statement (.lossPhaseDelay fam voice x) := fun h =>
  of_header (u := 5) (o := 3) rfl (unit_formatV _ _ (by decide) h) (op_formatV _ _ (by decide) h) rfl rfl

theorem dispSetGD (fam : Nat) (voice : Fin 8) (g : Word) : Statement (.dispSetGD fam voice g) := fun h =>
  of_header (u := 6) (o := 0) rfl (unit_formatV _ _ (by decide) h) (op_formatV _ _ (by decide) h) rfl rfl

theorem dispSetStages (fam : Nat) (voice : Fin 8) (stages : Nat) : Statement (.dispSetStages fam voice stages) := fun h =>
  have hs : famFits fam = true ∧ stages < 2 ^ 3 := by simpa [Instr.wellFormed, stagesFit] using h
  of_header (u := 6) (o := 1) rfl (unit_formatV _ _ hs.2 hs.1) (op_formatV _ _ hs.2 hs.1) rfl rfl

theorem dispProcess (fam : Nat) (voice : Fin 8) (x : Word) : Statement (.dispProcess fam voice x) := fun h =>
  of_header (u := 6) (o := 2) rfl (unit_formatV _ _ (by decide) h) (op_formatV _ _ (by decide) h) rfl rfl

theorem dispPhaseDelay (fam : Nat) (voice : Fin 8) (x : Word) : Statement (.dispPhaseDelay fam voice x) := fun h =>
  of_header (u := 6) (o := 3) rfl (unit_formatV _ _ (by decide) h) (op_formatV _ _ (by decide) h) rfl rfl

theorem noiseSeed (fam : Nat) (voice : Fin 8) (x : Word) : Statement (.noiseSeed fam voice x) := fun h =>
  of_header (u := 7) (o := 0) rfl (unit_formatV _ _ (by decide) h) (op_formatV _ _ (by decide) h) rfl rfl

theorem noiseNext (fam : Nat) (voice : Fin 8) : Statement (.noiseNext fam voice) := fun h =>
  of_header (u := 7) (o := 1) rfl (unit_formatV _ _ (by decide) h) (op_formatV _ _ (by decide) h) rfl rfl

end Sys2Proof.Laws.HeaderFields
end

