-- ==== Sys2Proof/Laws/Voices.lean ====
section
/-! SUPPORT. What the voices' functions keep: a voice's lines, stage count and sustain bit, the burst's bounds, and the
soundness of the delay pool (45_voices R611–R626). -/

namespace Sys2Proof.Machine

/-- Every line that the voice refers to lies below n. -/
def Voice.LinesBelow (V : Voice) (n : Nat) : Prop := ∀ k l, V.line k = some l → l < n

/-- The excitation counter and the split point lie in the burst. -/
def Voice.BurstOk (V : Voice) : Prop := V.n ≤ V.burstLen ∧ V.p ≤ V.burstLen

/-- What every function of a voice keeps. -/
structure Voice.Keeps (V W : Voice) : Prop where
  line0 : W.line0 = V.line0
  line1 : W.line1 = V.line1
  stages : W.disp.m = V.disp.m
  burst : V.BurstOk → W.BurstOk

theorem Voice.Keeps.line {V W : Voice} (h : V.Keeps W) (k : Fin 2) : W.line k = V.line k := by
  unfold Voice.line
  rw [h.line0, h.line1]

theorem Voice.Keeps.refl (V : Voice) : V.Keeps V := ⟨rfl, rfl, rfl, id⟩

theorem Voice.Keeps.trans {V W X : Voice} (h : V.Keeps W) (g : W.Keeps X) : V.Keeps X :=
  ⟨g.line0.trans h.line0, g.line1.trans h.line1, g.stages.trans h.stages, fun b => g.burst (h.burst b)⟩

theorem Voice.Keeps.linesBelow {V W : Voice} (h : V.Keeps W) {n : Nat} (hn : V.LinesBelow n) : W.LinesBelow n :=
  fun k l hl => hn k l (h.line k ▸ hl)

theorem loopFilter_keeps (V : Voice) (y : F32) : V.Keeps (loopFilter V y).1 :=
  ⟨rfl, rfl, dpStep_m _ _, id⟩

theorem withExcitation_keeps {V : Voice} (s : Word) (h : V.n < V.burstLen) :
    V.Keeps { V with noise := s, n := V.n + 1 } := ⟨rfl, rfl, rfl, fun b => ⟨h, b.2⟩⟩

/-- The voice after one sample's excitation. -/
theorem excitation_voice (E : VoiceEnv) (V : Voice) :
    (excitation E V).1 =
      if V.n < V.burstLen then { V with noise := nzAdvance V.noise, n := V.n + 1 } else V := by
  unfold excitation
  by_cases h : V.n < V.burstLen
  · rw [if_pos h, if_pos h]
  · rw [if_neg h, if_neg h]

theorem excitation_keeps (E : VoiceEnv) (V : Voice) : V.Keeps (excitation E V).1 := by
  rw [excitation_voice]
  by_cases h : V.n < V.burstLen
  · rw [if_pos h]
    exact withExcitation_keeps _ h
  · rw [if_neg h]
    exact .refl _

theorem withEnv_keeps (V : Voice) (e : F32) : V.Keeps { V with env := e } := ⟨rfl, rfl, rfl, id⟩

theorem withPeak_keeps (V : Voice) (p : F32) : V.Keeps { V with peak := p } := ⟨rfl, rfl, rfl, id⟩

theorem raisePeak_keeps (V : Voice) (y : F32) : V.Keeps (raisePeak V y) := withPeak_keeps V _

theorem reedLoop_keeps (V : Voice) (e y : F32) : V.Keeps (loopFilter { V with env := e } y).1 :=
  (withEnv_keeps V e).trans (loopFilter_keeps _ y)

/-- What a sample step of any family keeps: the voice's lines and the pool's soundness. -/
def StepKeeps (cap : Nat) (V : Voice) (d : DelayPool) (r : StepOut) : Prop :=
  V.Keeps r.voice ∧ ∀ n, V.LinesBelow n → d.Sound cap n → r.delay.Sound cap n

theorem stepKeeps_unusable (cap : Nat) (V : Voice) (d : DelayPool) (y : F32) : StepKeeps cap V d ⟨y, V, d⟩ :=
  ⟨.refl _, fun _ _ hd => hd⟩

theorem stepKeeps_push {cap : Nat} {V W : Voice} {d : DelayPool} {l : Nat} (y x : F32) (h : V.Keeps W)
    (hl : V.line 0 = some l) : StepKeeps cap V d ⟨y, W, d.push cap l x⟩ :=
  ⟨h, fun _ hn hd => hd.push (hn 0 l hl) x⟩

theorem stepKeeps_push2 {cap : Nat} {V W : Voice} {d : DelayPool} {a b : Nat} (y x z : F32) (h : V.Keeps W)
    (ha : V.line 0 = some a) (hb : V.line 1 = some b) : StepKeeps cap V d ⟨y, W, (d.push cap a x).push cap b z⟩ :=
  ⟨h, fun _ hn hd => (hd.push (hn 0 a ha) x).push (hn 1 b hb) z⟩

theorem stringStep_keeps (E : VoiceEnv) (V : Voice) (d : DelayPool) : StepKeeps E.cfg.cap V d (stringStep E V d) := by
  unfold stringStep
  split
  · exact stepKeeps_unusable _ _ _ _
  · rename_i l h0
    exact stepKeeps_push _ _ ((loopFilter_keeps _ _).trans (excitation_keeps _ _)) h0

theorem reedStep_keeps (E : VoiceEnv) (V : Voice) (d : DelayPool) : StepKeeps E.cfg.cap V d (reedStep E V d) := by
  unfold reedStep
  split
  · exact stepKeeps_unusable _ _ _ _
  · rename_i l h0
    exact stepKeeps_push _ _ (reedLoop_keeps _ _ _) h0

theorem bowStep_keeps (E : VoiceEnv) (V : Voice) (d : DelayPool) : StepKeeps E.cfg.cap V d (bowStep E V d) := by
  unfold bowStep
  split
  · rename_i a b h0 h1
    exact stepKeeps_push2 _ _ _ (reedLoop_keeps _ _ _) h0 h1
  · exact stepKeeps_unusable _ _ _ _

/-- A sample step keeps the voice's lines and the pool's soundness. -/
theorem voiceStep_keeps (E : VoiceEnv) (f : Family) (V : Voice) (d : DelayPool) :
    StepKeeps E.cfg.cap V d (voiceStep E f V d) := by
  cases f
  · exact stringStep_keeps E V d
  · exact reedStep_keeps E V d
  · exact bowStep_keeps E V d

theorem voiceSamples_keeps (E : VoiceEnv) (f : Family) (m : Nat) (V : Voice) (d : DelayPool) :
    V.Keeps (voiceSamples E f m V d).voice ∧
    ∀ n, V.LinesBelow n → d.Sound E.cfg.cap n → (voiceSamples E f m V d).delay.Sound E.cfg.cap n := by
  induction m generalizing V d with
  | zero => exact ⟨.refl _, fun _ _ hd => hd⟩
  | succ m ih =>
    obtain ⟨h1, h2⟩ := voiceStep_keeps E f V d
    unfold voiceSamples
    generalize voiceStep E f V d = r at h1 h2 ⊢
    have hr := h1.trans (raisePeak_keeps r.voice r.out)
    obtain ⟨g1, g2⟩ := ih (raisePeak r.voice r.out) r.delay
    exact ⟨hr.trans g1, fun n hn hd => g2 n (hr.linesBelow hn) (h2 n hn hd)⟩

/-- A block of a voice keeps its lines and the pool's soundness. -/
theorem voiceBlock_keeps (E : VoiceEnv) (f : Family) (V : Voice) (d : DelayPool) :
    V.Keeps (voiceBlock E f V d).voice ∧
    ∀ n, V.LinesBelow n → d.Sound E.cfg.cap n → (voiceBlock E f V d).delay.Sound E.cfg.cap n := by
  have h0 := withPeak_keeps V Fp.zero
  obtain ⟨g1, g2⟩ := voiceSamples_keeps E f E.cfg.block { V with peak := Fp.zero } d
  exact ⟨h0.trans g1, fun n hn hd => g2 n (h0.linesBelow hn) hd⟩

/-- A block has B samples. -/
theorem voiceSamples_length (E : VoiceEnv) (f : Family) (m : Nat) (V : Voice) (d : DelayPool) :
    (voiceSamples E f m V d).samples.length = m := by
  induction m generalizing V d with
  | zero => rfl
  | succ m ih => simp [voiceSamples, ih]

theorem voiceBlock_length (E : VoiceEnv) (f : Family) (V : Voice) (d : DelayPool) :
    (voiceBlock E f V d).samples.length = E.cfg.block := voiceSamples_length _ _ _ _ _

/-! ### NoteOn -/

theorem noteOnReset_keeps (f : Family) (ch : Fin 16) (note vel : Fin 128) (V : Voice) :
    V.Keeps (noteOnReset f ch note vel V) := by
  cases f
  · exact ⟨rfl, rfl, rfl, fun b => ⟨Nat.zero_le _, b.2⟩⟩
  · exact ⟨rfl, rfl, rfl, id⟩
  · exact ⟨rfl, rfl, rfl, id⟩

theorem clearLines_sound {cap n : Nat} (f : Family) {V : Voice} {d : DelayPool} (hn : V.LinesBelow n)
    (hd : d.Sound cap n) : (clearLines cap f V d).Sound cap n := by
  unfold clearLines
  induction lineSlots f generalizing d with
  | nil => exact hd
  | cons k ks ih =>
    rw [List.foldl_cons]
    apply ih
    cases h : V.line k with
    | none => exact hd
    | some l => exact hd.clear (hn k l h)

/-- A split point clamped to the burst lies in it. -/
theorem clampInt_toNat_le (x : Int) (b : Nat) : (Fp.clampInt x 0 b).toNat ≤ b := by
  have := DelayPool.clampInt_bounds (n := x) (lo := 0) (hi := b) (by omega)
  omega

/-- A stage count read from a live value, free or not, is one that the chain can have (44_dispersion R554). -/
theorem asStages_le (x : LiveVal) : x.asStages ≤ 4 := clampInt_toNat_le _ 4

theorem stringNoteOnTail_keeps (E : VoiceEnv) (note : Fin 128) (V : Voice) (d : DelayPool) (hV : V.n = 0) :
    V.Keeps (stringNoteOnTail E note V d).1 ∧
    ∀ n, V.LinesBelow n → d.Sound E.cfg.cap n → (stringNoteOnTail E note V d).2.Sound E.cfg.cap n := by
  unfold stringNoteOnTail
  generalize tfSplit V.tune (loopRemainder E.cfg V note) = r
  generalize pluckDecay E.cfg (loopLength E.cfg note) (liveF E .strDecayMs) = decay
  cases h0 : V.line0 with
  | none =>
    exact ⟨⟨h0.symm, rfl, rfl, fun _ => ⟨Nat.le_of_eq hV, Nat.le_refl _⟩⟩, fun _ _ hd => hd⟩
  | some l =>
    exact ⟨⟨h0.symm, rfl, rfl, fun _ => ⟨Nat.le_trans (Nat.le_of_eq hV) (Nat.zero_le _), clampInt_toNat_le _ _⟩⟩,
      fun n hn hd => hd.setDelay (hn 0 l h0) _⟩

/-- VoiceNoteOn keeps the voice's lines and the pool's soundness. -/
theorem voiceNoteOn_keeps (E : VoiceEnv) (f : Family) (ch : Fin 16) (note vel : Fin 128) (V : Voice) (d : DelayPool) :
    V.Keeps (voiceNoteOn E f ch note vel V d).1 ∧
    ∀ n, V.LinesBelow n → d.Sound E.cfg.cap n → (voiceNoteOn E f ch note vel V d).2.Sound E.cfg.cap n := by
  have h := noteOnReset_keeps f ch note vel V
  have hc : ∀ n, V.LinesBelow n → d.Sound E.cfg.cap n →
      (clearLines E.cfg.cap f (noteOnReset f ch note vel V) d).Sound E.cfg.cap n :=
    fun n hn hd => clearLines_sound f (h.linesBelow hn) hd
  cases f with
  | string =>
    obtain ⟨g1, g2⟩ := stringNoteOnTail_keeps E note (noteOnReset .string ch note vel V)
      (clearLines E.cfg.cap .string (noteOnReset .string ch note vel V) d) rfl
    exact ⟨h.trans g1, fun n hn hd => g2 n (h.linesBelow hn) (hc n hn hd)⟩
  | reed =>
    refine ⟨h.trans ⟨rfl, rfl, rfl, id⟩, fun n hn hd => ?_⟩
    simp only [voiceNoteOn, reedNoteOnTail]
    cases h0 : (noteOnReset .reed ch note vel V).line0 with
    | none => exact hc n hn hd
    | some l => exact (hc n hn hd).setDelay (h.linesBelow hn 0 l h0) _
  | bow =>
    refine ⟨h.trans ⟨rfl, rfl, rfl, id⟩, fun n hn hd => ?_⟩
    simp only [voiceNoteOn, bowNoteOnTail]
    cases h0 : (noteOnReset .bow ch note vel V).line0 with
    | none => exact hc n hn hd
    | some a =>
      cases h1 : (noteOnReset .bow ch note vel V).line1 with
      | none => exact hc n hn hd
      | some b =>
        exact ((hc n hn hd).setDelay (h.linesBelow hn 0 a h0) _).setDelay (h.linesBelow hn 1 b h1) _

end Sys2Proof.Machine
end

