-- ==== Sys2Proof/Tests/Slice0.lean ====
section
/-! SUPPORT. The model's own tests, with expected values from spec/95_test_vectors.md and the rules' own examples; and, for
every statement with hypotheses, a witness that they can be met. -/

open Sys2Proof Sys2Proof.Machine Sys2Proof.Claims

namespace Sys2Proof.Tests

/-! ### States to test on -/

/-- The reset state in STOP mode. -/
def stopped : State := { State.reset with mode := .stop }

/-- The state after a command. -/
def after (i : Instr) (s : State) : State :=
  match exec i s with
  | .next t => t
  | .fault _ => s
  | .refused _ => s

/-- RESULT, LAST_ERR and CMD_ERR after a command. -/
def response (i : Instr) (s : State) : Word × ErrCode × Bool :=
  ((after i s).result, (after i s).lastErr, (after i s).cmdErr)

/-- `stopped` with line l at the given cursor and length. -/
def lineAt (l w len : Nat) (mem : Memory) : State :=
  { stopped with delay := { mem := mem, lines := stopped.delay.lines.set l ⟨w, len⟩ } }

/-- `stopped` with voice v of family f changed. -/
def voiceAs (f : Family) (v : Fin 8) (g : Voice → Voice) : State := stopped.setVoice f v (g (stopped.voice f v))

/-- `stopped` after the HOST has taken line 8. -/
def holds8 : State :=
  { stopped with alloc := ⟨[9, 10, 11, 12, 13, 14, 15], stopped.alloc.owner.set 8 .host⟩ }

/-- `stopped` after the HOST has taken all eight lines. -/
def exhausted : State :=
  { stopped with alloc := ⟨[], stopped.alloc.owner.take 8 ++ List.replicate 8 .host⟩ }

/-- The reset state with these words on the port and the HOST to move. -/
def sending (ws : List Word) : State := { State.reset with port := ws, sched := [.host] }

/-- The reset state with these words on the port, and nothing said of who moves. -/
def byDefault (ws : List Word) : State := { State.reset with port := ws }

/-! ### Well-formedness: an ill-formed term for each check -/

theorem test_line_too_wide : (Instr.dlClear 256).wellFormed = false ∧ (Instr.dlClear 255).wellFormed = true := by decide

theorem test_fam_too_wide : (Instr.noiseNext 4 0).wellFormed = false ∧ (Instr.noiseNext 3 0).wellFormed = true := by decide

theorem test_stages_too_wide :
    (Instr.dispSetStages 0 0 8).wellFormed = false ∧ (Instr.dispSetStages 0 0 7).wellFormed = true := by decide

/-! ### Decoding: the Encoding table of 95_test_vectors, one word for each command -/

theorem test_decode_engine :
    decode [0x00000000#32] = .command .nop [] ∧
    decode [0x010F7F7F#32] = .command (.noteOn 15 127 127) [] ∧
    decode [0x02004500#32] = .command (.noteOff 69) [] ∧
    decode [0x03000002#32] = .command (.setInstrument 2) [] ∧
    decode [0x04000000#32] = .command .forceStopAll [] ∧
    decode [0x05000000#32] = .command .readStatus [] ∧
    decode [0x06000000#32, 0x00000003#32] = .command (.clearStatus 3) [] ∧
    decode [0x07000000#32] = .command .engineStop [] ∧
    decode [0x08000000#32] = .command .engineRun [] := by decide

theorem test_decode_param :
    decode [0x10000003#32, 0x000061A8#32] = .command (.paramSet 3 25000) [] ∧
    decode [0x11000103#32, 0xFFFFFFFD#32] = .command (.paramAdd 3 true 0xFFFFFFFD#32) [] ∧
    decode [0x12000003#32] = .command (.paramReset 3) [] ∧
    decode [0x13000015#32] = .command (.paramGet 21) [] := by decide

theorem test_decode_delay_alloc :
    decode [0x20000009#32, 0x3F800000#32] = .command (.dlPush 9 0x3F800000#32) [] ∧
    decode [0x21000009#32] = .command (.dlGetLast 9) [] ∧
    decode [0x22000009#32, 0x40000000#32] = .command (.dlProcess 9 0x40000000#32) [] ∧
    decode [0x23000003#32, 0x00001388#32] = .command (.dlSetDelay 3 5000) [] ∧
    decode [0x24000003#32] = .command (.dlClear 3) [] ∧
    decode [0x30000000#32] = .command .allocGet [] ∧
    decode [0x31000008#32] = .command (.allocRelease 8) [] := by decide

theorem test_decode_tune_loss :
    decode [0x40000002#32, 0x40500000#32] = .command (.tfSetDelay 0 2 0x40500000#32) [] ∧
    decode [0x41000027#32, 0x3F800000#32] = .command (.tfProcess 2 7 0x3F800000#32) [] ∧
    decode [0x50000010#32, 0x457A0000#32] = .command (.lossSetCutoff 1 0 0x457A0000#32) [] ∧
    decode [0x51000127#32] = .command (.lossSetType 2 7 .lpf2) [] ∧
    decode [0x52000000#32, 0x3F800000#32] = .command (.lossProcess 0 0 0x3F800000#32) [] ∧
    decode [0x53000000#32, 0x43DC0000#32] = .command (.lossPhaseDelay 0 0 0x43DC0000#32) [] := by decide

theorem test_decode_disp_noise :
    decode [0x60000000#32, 0x40000000#32] = .command (.dispSetGD 0 0 0x40000000#32) [] ∧
    decode [0x61000310#32] = .command (.dispSetStages 1 0 3) [] ∧
    decode [0x62000000#32, 0x3F800000#32] = .command (.dispProcess 0 0 0x3F800000#32) [] ∧
    decode [0x63000000#32, 0x43DC0000#32] = .command (.dispPhaseDelay 0 0 0x43DC0000#32) [] ∧
    decode [0x70000000#32, 0x00000001#32] = .command (.noiseSeed 0 0 1) [] ∧
    decode [0x71000000#32] = .command (.noiseNext 0 0) [] := by decide

/-- The refusals at decode of 95_test_vectors, with the length consumed. -/
theorem test_decode_refusals :
    decode [0x00000001#32] = .illegal .reservedBits [] ∧ decode [0x09000000#32, 7] = .illegal .reservedOp [7] ∧
    decode [0x80000000#32, 7] = .illegal .reservedOp [7] ∧ decode [0x02004501#32] = .illegal .reservedBits [] ∧
    decode [0x10000103#32, 0, 7] = .illegal .reservedBits [7] ∧ decode [0x51000227#32] = .illegal .reservedBits [] ∧
    decode [0x010045E4#32] = .illegal .reservedBits [] ∧ decode [0x10000003#32] = .waiting ∧ decode [] = .waiting := by
  decide

/-- The words that the host asks with: a payload counts on from bit 32, and bits the table leaves out are 0. -/
theorem test_table_words :
    decodeTableWord 64 0x3F80000020000009 = some (.dlPush 9 0x3F800000#32) ∧
    decodeTableWord 32 0x61000310 = some (.dispSetStages 1 0 3) ∧ decodeTableWord 32 0x09000000 = none := by decide

/-- The very next step runs the word placed where the step takes its next command. -/
theorem test_with_fetch_word :
    step (State.reset.withFetchWord 64 0x000061A810000003) =
      .next (completed { State.reset with raw := State.reset.raw.set 3 25000, dirty := #v[8, 0, 0, 0] } 25000) := by rfl

/-! ### The configuration (47_params R831: a table that lacks a name 45_voices reads is refused; 00_scope R8) -/

theorem test_table_without_a_name_read :
    ([.reedAttackMs, .reedReleaseMs, .bowAttackMs, .bowReleaseMs, .bowSpeed] : List Config.ParamName).all (fun n =>
      !Config.tableOk (Config.defaultTable.map fun r => if r.name = n then { r with name := .other 0 } else r)) = true ∧
    (Config.build { Config.defaultParams with fns := .given 3 }).isSome = true ∧
    Config.build { Config.defaultParams with fs := 40000 } = none := by decide

/-- The table with one row changed, and with rows added. -/
def tableWith (n : Config.ParamName) (g : Config.ParamRow → Config.ParamRow) (more : List Config.ParamRow) :
    List Config.ParamRow :=
  (Config.defaultTable.map fun r => if r.name = n then g r else r) ++ more

/-- A second type row for String, of default LPF2. -/
def secondType : Config.ParamRow := ⟨.other 0, .int, -3, 1, 1, 1, 1, .lossType, .string⟩

/-- Tables that R831 accepts: an Int row of each kind that the default table has as Float, a Float one that it has as Int,
two type rows for a family and none, an ENV row of String, a name that stands twice. -/
theorem test_tables_accepted :
    Config.tableOk (tableWith .strColor (fun r => { r with kind := .int }) []) = true ∧
    Config.tableOk (tableWith .bowLossCutoff (fun r => { r with kind := .int }) []) = true ∧
    Config.tableOk (tableWith .reedAttackMs (fun r => { r with kind := .int }) []) = true ∧
    Config.tableOk (tableWith .strDispStages (fun r => { r with kind := .float }) []) = true ∧
    Config.tableOk (tableWith .strNoiseSeed id [secondType]) = true ∧
    Config.tableOk (tableWith .strLossType (fun r => { r with cb := .live }) []) = true ∧
    Config.tableOk (tableWith .strColor (fun r => { r with cb := .env .attack }) []) = true ∧
    Config.tableOk (tableWith .strColor (fun r => { r with name := .strPluckPos }) []) = false ∧
    Config.tableOk (tableWith .strColor id [⟨.strColor, .int, 0, 1, 1, 1, 0, .live, .string⟩]) = true := by decide

/-- R831's bounds on type and stage rows. -/
theorem test_tables_refused :
    Config.tableOk (tableWith .strLossType (fun r => { r with maxVal := 2 }) []) = false ∧
    Config.tableOk (tableWith .strLossType (fun r => { r with fam := .reed }) []) = false ∧
    Config.tableOk (tableWith .bowDispStages (fun r => { r with maxVal := 5 }) []) = false ∧
    Config.tableOk (tableWith .reedDisp (fun r => { r with fam := .bow }) []) = false := by decide

/-- The configuration with a second type row for String. -/
def twoTypes : Cfg := ⟨{ Config.defaultParams with table := tableWith .strColor id [secondType] }, by decide⟩

/-- The last type row decides at reset. -/
theorem test_reset_type : lossTypeFromLive twoTypes.val.table (resetLive twoTypes.val) .string = .lpf2 ∧
    lossTypeFromLive twoTypes.val.table (resetLive twoTypes.val) .bow = .lpf1 := by decide

/-! ### UNIT 0 -/

theorem test_nop_clears_last_err :
    response .nop { State.reset with result := 5, lastErr := .illegalArg, cmdErr := true } = (0, .ok, true) := by decide

theorem test_note_on : (after (.noteOn 0 69 100) State.reset).req[69] = .on 0 100 := by decide

theorem test_note_off_overwrites : (after (.noteOff 69) (after (.noteOn 0 69 100) State.reset)).req[69] = .off := by decide

theorem test_set_instrument : (after (.setInstrument 2) State.reset).instrReq = ⟨true, .bow⟩ := by decide

theorem test_set_instrument_3 : response (.setInstrument 3) State.reset = (0, .illegalArg, true) := by decide

theorem test_force_stop_all : (after .forceStopAll State.reset).fsaReq = true := by decide

theorem test_status_reset : response .readStatus State.reset = (0x00080000#32, .ok, false) := by decide

/-- R855: one String note sounds and the last command was refused with ILLEGAL_ARG. -/
theorem test_status_after_refusal :
    response .readStatus { State.reset with
      lastErr := .illegalArg, cmdErr := true, pools := State.reset.pools.set .string ⟨[0], [1, 2, 3, 4, 5, 6, 7], 0⟩ } =
      (0x00080132#32, .ok, true) := by decide

theorem test_clear_status :
    response (.clearStatus 2) { State.reset with lastErr := .illegalArg, cmdErr := true } = (0x00080000#32, .ok, false) := by
  decide

theorem test_engine_stop : response .readStatus (after .engineStop State.reset) = (0x00088000#32, .ok, false) := by decide

theorem test_engine_run : (after .engineRun { stopped with stopReq := true }).mode = .run ∧
    (after .engineRun { stopped with stopReq := true }).stopReq = false := by decide

/-! ### UNIT 1 (STR_PLUCK_POS is slot 3) -/

theorem test_param_set : (after (.paramSet 3 25000) State.reset).result = 25000 ∧
    (after (.paramSet 3 25000) State.reset).dirty = #v[8, 0, 0, 0] := by decide

theorem test_param_set_same_value : (after (.paramSet 3 50000) State.reset).dirty = #v[0, 0, 0, 0] := by decide

theorem test_param_add_alt : (after (.paramAdd 3 true 0xFFFFFFFD#32) State.reset).result = 20000 := by decide

theorem test_param_add_saturates : (after (.paramAdd 3 true 0x7FFFFFFF#32) State.reset).result = 100000 := by decide

theorem test_param_reset : (after (.paramReset 3) (after (.paramSet 3 20000) State.reset)).result = 50000 := by decide

theorem test_param_get : (after (.paramGet 11) State.reset).result = 30000 ∧
    response (.paramGet 40) State.reset = (0, .illegalArg, true) := by decide

/-! ### UNITs 2 and 3 (D1–D17) -/

theorem test_dl_push : (after (.dlPush 9 0x3F800000#32) stopped).delay.mem = [(18432, 0x3F800000#32)] ∧
    (after (.dlPush 9 0x3F800000#32) stopped).delay.line 9 = ⟨1, 0⟩ := by decide

theorem test_dl_push_wraps : (after (.dlPush 9 0x7FC00001#32) (lineAt 9 2047 3 [])).delay.line 9 = ⟨0, 3⟩ ∧
    (after (.dlPush 9 0x7FC00001#32) (lineAt 9 2047 3 [])).delay.mem.read 20479 = 0x7FC00001#32 := by decide

theorem test_dl_getlast : (after (.dlGetLast 9) (lineAt 9 1 1 [(18432, 0x3F800000#32)])).result = 0x3F800000#32 := by decide

theorem test_dl_getlast_wraps :
    (after (.dlGetLast 9) (lineAt 9 0 1 [(20479, 0x3F800000#32)])).result = 0x3F800000#32 := by decide

theorem test_dl_setdelay_high : (after (.dlSetDelay 3 5000) stopped).result = 0x7FF#32 := by decide

theorem test_dl_setdelay_negative : (after (.dlSetDelay 3 0x80000000#32) stopped).result = 0#32 := by decide

theorem test_dl_process : (after (.dlProcess 9 0x40000000#32) (lineAt 9 0 1 [])).result = 0x40000000#32 := by decide

theorem test_dl_clear : (after (.dlClear 9) (lineAt 9 1 1 [(18432, 0x3F800000#32)])).delay =
    (lineAt 9 0 1 []).delay := by decide

theorem test_dl_run_mode : response (.dlPush 8 0x3F800000#32) State.reset = (0, .illegalState, true) := by decide

theorem test_alloc_get : (after .allocGet stopped).result = 8 ∧ (after .allocGet stopped).alloc.ownerOf 8 = .host := by
  decide

theorem test_alloc_get_exhausted : response .allocGet exhausted = (0xFFFFFFFF#32, .ok, false) := by decide

theorem test_alloc_release : (after (.allocRelease 8) holds8).alloc = stopped.alloc := by decide

theorem test_alloc_release_refused : response (.allocRelease 0) stopped = (0, .illegalArg, true) ∧
    response (.allocRelease 8) stopped = (0, .illegalArg, true) ∧
    response (.allocRelease 200) stopped = (0, .illegalArg, true) := by decide

/-! ### UNIT 4 (T1, T4, T8; the impulse response of 3.25) -/

theorem test_tf_setdelay : (after (.tfSetDelay 0 2 0x40500000#32) stopped).result = 2 ∧
    ((after (.tfSetDelay 0 2 0x40500000#32) stopped).voice .string 2).tune = ⟨0xBDE38E39#32, 0⟩ := by decide

theorem test_tf_setdelay_corners : (after (.tfSetDelay 2 7 0x7F800000#32) stopped).result = 65535 ∧
    (after (.tfSetDelay 2 7 0x7FC00000#32) stopped).result = 0 ∧
    ((after (.tfSetDelay 1 0 0x3FBFFFFF#32) stopped).voice .reed 0).tune.alpha = 0xBE4CCCCA#32 := by decide

theorem test_tf_process :
    let s := voiceAs .string 2 fun V => { V with tune := ⟨0xBDE38E39#32, 0⟩ }
    (after (.tfProcess 0 2 0x3F800000#32) s).result = 0xBDE38E39#32 ∧
    ((after (.tfProcess 0 2 0x3F800000#32) s).voice .string 2).tune.v = 0x3F800000#32 := by decide

theorem test_tf_process_second :
    let s := voiceAs .string 2 fun V => { V with tune := ⟨0xBDE38E39#32, 0x3F800000#32⟩ }
    (after (.tfProcess 0 2 0) s).result = 0x3F7CD6EA#32 ∧
    ((after (.tfProcess 0 2 0) s).voice .string 2).tune.v = 0x3DE38E39#32 := by decide

/-! ### UNIT 5 (L1, L2, L5, L6, L7, L8, L10), with the default configuration functions -/

theorem test_loss_setcutoff_clamps :
    let s := after (.lossSetCutoff 0 0 0x46EA6000#32) stopped
    s.result = 0x469C4000#32 ∧ (s.voice .string 0).loss.b0 = 0x3F49E69E#32 ∧ (s.voice .string 0).loss.a1 = 0x3F13CD3C#32 ∧
    (after (.lossSetCutoff 1 0 0x461C4000#32) stopped).result = 0x45FA0000#32 ∧
    ((after (.lossSetCutoff 0 0 0x80000000#32) stopped).voice .string 0).loss.b0 = 0x80000000#32 := by decide +kernel

theorem test_loss_setcutoff_low : (after (.lossSetCutoff 0 0 0xC0A00000#32) stopped).result = 0 ∧
    (after (.lossSetCutoff 0 0 0x80000000#32) stopped).result = 0x80000000#32 := by decide

theorem test_loss_settype : ((after (.lossSetType 2 7 .lpf2) stopped).voice .bow 7).loss.ty = .lpf2 ∧
    ((after (.lossSetType 0 0 .lpf2) stopped).voice .string 0).loss =
      ⟨.lpf2, 0x45FA0000#32, 0x3E1EC5B2#32, 0x3E9EC5B2#32, 0x3E1EC5B2#32, 0xBF1EC5B3#32, 0x3E762D93#32, 0, 0⟩ := by
  decide +kernel

theorem test_loss_settype_reed : response (.lossSetType 1 0 .lpf1) stopped = (0, .illegalArg, true) := by decide

theorem test_loss_process_lpf1 :
    let s := voiceAs .string 0 fun V =>
      { V with loss := ⟨.lpf1, 0x45FA0000#32, 0x3EBB67AE#32, 0x3EBB67AE#32, 0, 0xBE8930A3#32, 0, 0x3EED9EBA#32, 0⟩ }
    (after (.lossProcess 0 0 0) s).result = 0x3EED9EBA#32 ∧
    ((after (.lossProcess 0 0 0) s).voice .string 0).loss.s1 = 0x3DFEAE2D#32 := by decide

theorem test_loss_process_lpf2 :
    let s := voiceAs .string 0 fun V => { V with loss :=
      ⟨.lpf2, 0x45FA0000#32, 0x3E1EC5B2#32, 0x3E9EC5B2#32, 0x3E1EC5B2#32, 0xBF1EC5B3#32, 0x3E762D93#32, 0, 0⟩ }
    let t := ((after (.lossProcess 0 0 0x3F800000#32) s).voice .string 0).loss
    (t.s1, t.s2) = (0x3ED00202#32, 0x3DF13446#32) := by decide

theorem test_loss_phasedelay : (after (.lossPhaseDelay 0 0 0) stopped).result = 0 ∧
    (after (.lossPhaseDelay 0 0 0x7FC00000#32) stopped).result = 0 := by decide

theorem test_loss_phasedelay_lpf1 : (after (.lossPhaseDelay 0 0 0x43DC0000#32) stopped).result = 0x3F5D947F#32 ∧
    (after (.lossPhaseDelay 1 0 0x43DC0000#32) stopped).result = 0x3FEE00D2#32 := by decide +kernel

/-! ### UNIT 6 (X1, X5, the rules' examples, and d = 2^-24 and 2^-25 by hand from R553: log 21) -/

theorem test_disp_setgd : (after (.dispSetGD 0 0 0x40000000#32) stopped).result = 0x3EAAAAAB#32 ∧
    (after (.dispSetGD 0 0 0x7F800000#32) stopped).result = 0xBF7FF800#32 ∧
    (after (.dispSetGD 0 0 0x34800000#32) stopped).result = 0x3F7FFFFF#32 ∧
    (after (.dispSetGD 0 0 0x34000000#32) stopped).result = Fp.one := by decide

theorem test_disp_setgd_bypass : ((after (.dispSetGD 0 0 0xBF800000#32) stopped).voice .string 0).disp.bypass = true := by
  decide

theorem test_disp_setstages :
    let s := voiceAs .reed 0 fun V => { V with disp := { V.disp with gd := 0x40400000#32, bypass := false } }
    (after (.dispSetStages 1 0 3) s).result = 0 ∧ ((after (.dispSetStages 1 0 3) s).voice .reed 0).disp.bypass = false := by
  decide

theorem test_disp_setstages_5 : response (.dispSetStages 1 0 5) stopped = (0, .illegalArg, true) := by decide

theorem test_disp_process :
    let s := voiceAs .string 0 fun V => { V with disp := ⟨4, 0x40000000#32, 0x3EAAAAAB#32, false, #v[0, 0, 0, 0]⟩ }
    (after (.dispProcess 0 0 0x3F800000#32) s).result = 0x3C4A458A#32 ∧
    ((after (.dispProcess 0 0 0x3F800000#32) s).voice .string 0).disp.vs =
      #v[0x3F800000#32, 0x3EAAAAAB#32, 0x3DE38E3A#32, 0x3D17B427#32] := by decide +kernel

theorem test_disp_process_bypass : (after (.dispProcess 0 0 0x7FC00001#32) stopped).result = 0x7FC00001#32 := by decide

theorem test_disp_phasedelay : (after (.dispPhaseDelay 0 0 0x43DC0000#32) stopped).result = 0 := by decide

theorem test_disp_phasedelay_x1 :
    let s := voiceAs .string 0 fun V => { V with disp := ⟨4, 0x40000000#32, 0x3EAAAAAB#32, false, #v[0, 0, 0, 0]⟩ }
    (after (.dispPhaseDelay 0 0 0x43DC0000#32) s).result = 0x400006CB#32 := by decide +kernel

/-! ### UNIT 7 -/

theorem test_noise_seed : ((after (.noiseSeed 0 3 1) stopped).voice .string 3).noise = 1 := by decide

theorem test_noise_next :
    let s := voiceAs .string 3 fun V => { V with noise := 1 }
    (after (.noiseNext 0 3) s).result = 0x3EF22166#32 ∧
    ((after (.noiseNext 0 3) s).voice .string 3).noise = 0x3C88596C#32 := by decide

theorem test_noise_next_reed : response (.noiseNext 1 0) stopped = (0, .illegalArg, true) := by decide

/-! ### The ENGINE (P1, P4, P9, P11) -/

theorem test_stop_tick :
    let t := { State.reset with stopReq := true }.engineStep
    t.mode = .stop ∧ t.emitted.length = 1 ∧ t.phase = .idle := by decide

theorem test_removal : removeSilent [0, 2] ⟨[0, 1, 2], [3], 0⟩ = ⟨[1], [2, 0, 3], 0⟩ := by decide

theorem test_switch_to_bow :
    let t := { State.reset with phase := .apply, instrReq := ⟨true, .bow⟩ }.engineStep
    t.active = .bow ∧ t.alloc.avail = [] ∧ (t.voice .bow 3).line0 = some 6 ∧ (t.voice .bow 3).line1 = some 7 ∧
    (after .readStatus { t with phase := .idle }).result = 0x00002000#32 := by decide

/-- The HOST gets lines 8 and 9 and releases 8 before 9: Bow voice 4 gets 9 and 8 (log 22). -/
theorem test_switch_after_host_releases :
    let s := after (.allocRelease 9) (after (.allocRelease 8) (after .allocGet (after .allocGet stopped)))
    let V := (s.switchTo .bow).voice .bow 4
    (V.line0, V.line1) = (some 9, some 8) := by decide

theorem test_callback_reads_raw :
    ({ State.reset with phase := .callback 3, raw := State.reset.raw.set 3 30000 }.engineStep).live[3]? =
      some (.f32 0x3E99999A#32) := by decide

/-! ### The default configuration functions, and what they give at reset and in the voices (E8, V1, V4, V6) -/

/-- 2^-150 is a tie and goes to +0.0; arctan(1.5 · 2^-149) lies below its tie; tan and sin of a zero keep its sign (IEEE
754-2019 §9.2). -/
theorem test_correctly_rounded :
    let c := Config.Functions.correctlyRounded
    Fp.pow2 c 0xC3160000#32 = 0 ∧ Fp.pow2 c 0xC3150000#32 = 1 ∧ Fp.atan2 c 3 Fp.two = 1 ∧
    Fp.tan32 c 0x80000000#32 = 0x80000000#32 ∧ Fp.atan2 c 0x80000000#32 0x80000000#32 = 0xC0490FDB#32 := by decide +kernel

theorem test_reset_coefficients :
    (State.reset.voice .bow 3).loss.b0 = 0x3E95F61A#32 ∧ (State.reset.voice .bow 3).loss.a1 = 0xBED413CE#32 ∧
    State.reset.envReed = ⟨0x3A887600#32, 0x39DA6800#32⟩ := by decide +kernel

theorem test_note_on_string :
    let s := State.reset.startVoice .string 0 0 69 100
    let V := s.voice .string 0
    (V.tune.alpha, V.decay, V.amp, V.burstLen, V.p, s.delay.line 0) =
      (0xBDCF671E#32, 0x3F7F54BF#32, 0x3F499326#32, 107, 53, ⟨0, 107⟩) := by decide +kernel

theorem test_reed_step :
    let s := (State.reset.switchTo .reed).startVoice .reed 0 0 60 100
    let r := voiceStep s.voiceEnv .reed (s.voice .reed 0) s.delay
    (s.delay.line 0).len = 181 ∧ r.voice.env = 0x3A2BEB57#32 ∧ r.delay.mem = [(0, 0x394E2AF8#32)] := by decide +kernel

theorem test_bow_step :
    let s := (State.reset.switchTo .bow).startVoice .bow 0 0 55 100
    let r := voiceStep s.voiceEnv .bow (s.voice .bow 0) s.delay
    (s.delay.line 0).len = 30 ∧ (s.delay.line 1).len = 213 ∧ r.voice.env = 0x38ABF932#32 ∧
    r.delay.mem.read 2048 = 0x38A888B1#32 := by decide +kernel

/-! ### Witnesses: states and operands that meet the hypotheses of the statements, clause by clause -/

theorem pools_reset : PoolsPartition State.reset := by
  intro f; cases f <;> decide

/-- What AllocatorConsistent says of one family's entries, in a form that can be decided. -/
abbrev entriesOk (s : State) (f : Family) : Prop :=
  ∀ (v : Fin 8) (k : Fin 2), (∀ l, l < 16 → (s.alloc.ownerOf l = .voice f v k ↔ (s.voice f v).line k = some l)) ∧
    ((s.voice f v).line k).all (fun l => decide (l < 16)) = true ∧
    (f ≠ s.active → (s.voice f v).line k = none) ∧ (k ∉ lineSlots f → (s.voice f v).line k = none)

theorem consistent_of (s : State) (hn : s.nLines = 16) (h1 : s.alloc.owner.length = 16) (h2 : s.alloc.avail.Nodup)
    (h3 : ∀ l ∈ s.alloc.avail, l < 16) (h4 : ∀ l, l < 16 → (s.alloc.ownerOf l = .free ↔ l ∈ s.alloc.avail))
    (hs : entriesOk s .string) (hr : entriesOk s .reed) (hb : entriesOk s .bow) : AllocatorConsistent s := by
  have h : ∀ f, entriesOk s f := by intro f; cases f <;> assumption
  refine ⟨by omega, h2, by rw [hn]; exact h3, by rw [hn]; exact h4, ?_, ?_, fun f v k => (h f v k).2.2.1,
    fun f v k => (h f v k).2.2.2⟩
  · rw [hn]; exact fun l f v k => (h f v k).1 l
  · intro f v k l hl
    have := (h f v k).2.1
    rw [hl] at this
    rw [hn]; simpa using this

theorem alloc_reset : AllocatorConsistent State.reset := by
  apply consistent_of <;> decide

theorem alloc_stopped : AllocatorConsistent stopped := by
  apply consistent_of <;> decide

theorem alloc_holds8 : AllocatorConsistent holds8 := by
  apply consistent_of <;> decide

theorem alloc_exhausted : AllocatorConsistent exhausted := by
  apply consistent_of <;> decide

theorem raw_reset : RawInRange State.reset := by
  refine ⟨by decide, ?_⟩
  have h : ∀ i, i < 31 → ∀ row ∈ State.reset.cfg.val.table[i]?, row.minVal ≤ State.reset.rawAt i ∧
      State.reset.rawAt i ≤ row.maxVal := by decide
  intro i row hi
  refine h i ?_ row hi
  have := (List.getElem?_eq_some_iff.mp hi).1
  exact this

theorem live_reset : LiveInRange State.reset := by
  refine ⟨by decide, ?_, ?_⟩
  · have h : ∀ i, i < 31 → ∀ row ∈ State.reset.cfg.val.table[i]?, row.minVal ≤ row.defaultVal ∧
        row.defaultVal ≤ row.maxVal ∧ State.reset.live[i]? = some (liveOf row row.defaultVal) := by decide
    intro i row hi
    exact ⟨row.defaultVal, h i (List.getElem?_eq_some_iff.mp hi).1 row hi⟩
  · intro f; cases f <;> decide

theorem phase_reset : PhaseConsistent State.reset := by
  refine ⟨fun _ => by decide, by decide, ?_⟩
  intro t h; cases h

theorem bounds_reset : LinesInBounds State.reset :=
  ⟨by decide, by decide, by decide, by decide, alloc_reset.refLines⟩

theorem burst_reset : BurstInRange State.reset := by
  intro f; cases f <;> decide

theorem inv_reset : Inv State.reset :=
  ⟨show State.reset.delay.mem.wf by decide, pools_reset, alloc_reset, raw_reset, live_reset, phase_reset, bounds_reset, burst_reset⟩

theorem lineReady_first : LineReady stopped 0 := ⟨rfl, by decide, by decide⟩

theorem lineReady_last : LineReady stopped 15 := ⟨rfl, by decide, by decide⟩

theorem lineReady_longest : LineReady (lineAt 9 2047 1 []) 9 := ⟨rfl, by decide, by decide⟩

/-- The two premises of `Guarded`, which every diagnostic command's statement holds. -/
theorem witness_Guarded : State.reset.mode = .run ∧ stopped.mode = .stop ∧ argRefused stopped (.dlPush 16 0) :=
  ⟨rfl, rfl, show stopped.nLines ≤ 16 by decide⟩

theorem witness_DecodeOfEncode : (Instr.dispSetStages 3 7 7).wellFormed = true ∧ (Instr.dlPush 255 0).wellFormed = true ∧
    (Instr.noteOn 15 127 127).wellFormed = true := by decide

theorem witness_EncodeOfDecode : decode [0x61000737#32, 1] = .command (.dispSetStages 3 7 7) [1] ∧
    decode [0x230000FF#32, 0x80000000#32] = .command (.dlSetDelay 255 0x80000000#32) [] := by decide

theorem witness_LengthFromOpcodeAlone :
    hasPayload (unitOf 0x06000001#32) (opOf 0x06000001#32) ∧ hasPayload (unitOf 0x70000000#32) (opOf 0x70000000#32) ∧
    ¬hasPayload (unitOf 0x71000000#32) (opOf 0x71000000#32) ∧ ¬hasPayload (unitOf 0xF0000000#32) (opOf 0xF0000000#32) := by
  refine ⟨?_, ?_, ?_, ?_⟩ <;> unfold hasPayload <;> decide

theorem witness_IllegalCommandsAreRefused :
    ((sending [0x09000000#32]).sched = [.host] ∧ reservedPair (unitOf 0x09000000#32) (opOf 0x09000000#32) ∧
      (sending [0x09000000#32]).port = [0x09000000#32]) ∧
    reservedPair (unitOf 0x80000000#32) (opOf 0x80000000#32) ∧ reservedPair (unitOf 0x7F000000#32) (opOf 0x7F000000#32) ∧
    ((∀ r ∈ opRows, 0x00000001#32 &&& r.mask ≠ r.pattern) ∧ ¬hasPayload (unitOf 0x00000001#32) (opOf 0x00000001#32)) ∧
    (∀ r ∈ opRows, 0x10000103#32 &&& r.mask ≠ r.pattern) ∧ hasPayload (unitOf 0x10000103#32) (opOf 0x10000103#32) ∧
    (sending [0x10000103#32, 0]).port = [0x10000103#32, 0] ∧
    HostNext (sending [0x09000000#32]) [] ∧ HostNext (byDefault [0x09000000#32]) [] := by
  refine ⟨⟨rfl, ?_, rfl⟩, ?_, ?_, ⟨by decide, ?_⟩, by decide, ?_, rfl, .inl rfl, .inr ⟨rfl, rfl⟩⟩
  all_goals first | unfold reservedPair; decide | unfold hasPayload; decide

theorem witness_StepRunsTheDecodedCommand :
    decode (sending [0x05000000#32]).port = .command .readStatus [] ∧ (sending [0x05000000#32]).sched = [.host] ∧
    decode ({ State.reset with port := [0x05000000#32] } : State).port = .command .readStatus [] ∧
    ({ State.reset with port := [0x05000000#32] } : State).sched = [] := by decide

theorem witness_StepOfTheOtherAgents :
    ({ State.reset with sched := [.engine] } : State).sched = [.engine] ∧
    (State.reset.sched = [] ∧ decode State.reset.port = .waiting) ∧
    ({ State.reset with sched := [.reset, .host] } : State).sched = [.reset, .host] ∧
    ((sending [0x10000003#32]).sched = [.host] ∧ decode (sending [0x10000003#32]).port = .waiting) := by decide

theorem witness_ModeGateAndCommandClasses :
    ((Instr.noiseNext 3 7).wellFormed = true ∧ encode (.noiseNext 3 7) = [0x71000037#32]) ∧
    ((Instr.dlPush 0 0).isDiagnostic = true ∧ State.reset.mode = .run) ∧
    (((Instr.dlPush 0 0).isDiagnostic = true → stopped.mode = .stop) ∧ ∃ t, exec (.dlPush 0 0) stopped = .next t) ∧
    ((Instr.paramSet 0 0).isDiagnostic = false ∧ ∃ t, exec (.paramSet 0 0) State.reset = .next t) :=
  ⟨by decide, by decide, ⟨fun _ => rfl, _, rfl⟩, rfl, _, rfl⟩

/-- Both sides of each line of the list of argument refusals, where they meet. -/
theorem witness_ArgumentChecks :
    ((Instr.dlPush 15 0).isDiagnostic = true → stopped.mode = .stop) ∧
    (argRefused stopped (.dlPush 16 0) ∧ ¬argRefused stopped (.dlPush 15 0)) ∧
    (argRefused stopped (.setInstrument 3) ∧ ¬argRefused stopped (.setInstrument 2)) ∧
    (argRefused stopped (.paramGet 31) ∧ ¬argRefused stopped (.paramGet 30)) ∧
    (argRefused holds8 (.allocRelease 16) ∧ argRefused holds8 (.allocRelease 9) ∧ ¬argRefused holds8 (.allocRelease 8)) ∧
    (argRefused stopped (.tfProcess 3 0 0) ∧ ¬argRefused stopped (.tfProcess 2 0 0)) ∧
    (argRefused stopped (.lossSetType 1 0 .lpf1) ∧ ¬argRefused stopped (.lossSetType 2 0 .lpf1)) ∧
    (argRefused stopped (.dispSetStages 0 0 5) ∧ ¬argRefused stopped (.dispSetStages 0 0 4)) ∧
    (argRefused stopped (.noiseNext 1 0) ∧ ¬argRefused stopped (.noiseNext 0 0)) := by
  unfold argRefused; exact ⟨fun _ => rfl, by decide⟩

theorem witness_RefusalAndSuccess :
    (HostNext (sending [0x80000000#32]) [] ∧ decode (sending [0x80000000#32]).port = .illegal .reservedOp []) ∧
    (HostNext (byDefault [0x80000000#32]) [] ∧ decode (byDefault [0x80000000#32]).port = .illegal .reservedOp []) ∧
    ((Instr.dlPush 16 0).isDiagnostic = true ∧ State.reset.mode = .run ∧ argRefused State.reset (.dlPush 16 0)) ∧
    (exec (.setInstrument 3) State.reset = .next (after (.setInstrument 3) State.reset) ∧
      (after (.setInstrument 3) State.reset).lastErr ≠ .ok) ∧
    exec .nop State.reset = .next (after .nop State.reset) ∧ (after .nop State.reset).lastErr = .ok ∧
    ∀ mask, Instr.nop ≠ .clearStatus mask :=
  ⟨⟨.inl rfl, by decide⟩, ⟨.inr ⟨rfl, rfl⟩, by decide⟩, ⟨rfl, rfl, show State.reset.nLines ≤ 16 by decide⟩, ⟨rfl, by decide⟩, rfl, rfl, fun _ => nofun⟩

/-- A step that changes ACTIVE, one that changes LIVE, one that changes RAW, and one that enters STOP mode. -/
theorem witness_WhoWritesWhat :
    (∃ s t, step s = .next t ∧ s.sched.head? ≠ some .reset ∧ t.active ≠ s.active) ∧
    (∃ s t, step s = .next t ∧ s.sched.head? ≠ some .reset ∧ t.live ≠ s.live) ∧
    (∃ s t, step s = .next t ∧ s.sched.head? ≠ some .reset ∧ t.raw ≠ s.raw) ∧
    ∃ s t, step s = .next t ∧ s.sched.head? ≠ some .reset ∧ t.mode = .stop ∧ s.mode = .run :=
  ⟨⟨{ State.reset with phase := .apply, instrReq := ⟨true, .bow⟩ }, _, rfl, by decide, by decide⟩,
   ⟨{ State.reset with phase := .callback 3, raw := State.reset.raw.set 3 30000 }, _, rfl, by decide, by decide⟩,
   ⟨sending [0x10000003#32, 0x000061A8#32], _, rfl, by decide, by decide⟩,
   ⟨{ State.reset with stopReq := true }, _, rfl, by decide, by decide, rfl⟩⟩

theorem witness_ReadStatusFields :
    (State.reset.pool State.reset.active).used.length ≤ 8 ∧ State.reset.alloc.avail.length ≤ 255 := by decide

/-- The three commands, a value below the range, and a slot at the end of the table. -/
theorem witness_ParamMutation :
    State.reset.cfg.val.table.length ≤ (31 : Fin 128).val ∧ RawInRange State.reset ∧
    ∃ row, State.reset.cfg.val.table[(3 : Fin 128).val]? = some row ∧
      mutation State.reset row (.paramSet 3 0x80000000#32) = some (3, -2147483648) ∧
      mutation State.reset row (.paramAdd 3 true 0xFFFFFFFD#32) = some (3, 20000) ∧
      mutation State.reset row (.paramReset 3) = some (3, 50000) :=
  ⟨by decide, raw_reset, _, rfl, by decide, by decide, by decide⟩

theorem witness_ParamGet : (RawInRange State.reset ∧ State.reset.raw[(30 : Fin 128).val]? = some 4) ∧
    State.reset.cfg.val.table.length ≤ (31 : Fin 128).val :=
  ⟨⟨raw_reset, by decide⟩, by decide⟩

/-- Up to the greatest value of the slot and back. -/
theorem witness_ParamAddRoundTrip : ∃ t u row, RawInRange State.reset ∧
    State.reset.cfg.val.table[(3 : Fin 128).val]? = some row ∧ (0xFFFFFFCE#32).toInt = -(50#32).toInt ∧
    row.minVal ≤ State.reset.rawAt 3 + (50#32).toInt * row.step ∧
    State.reset.rawAt 3 + (50#32).toInt * row.step ≤ row.maxVal ∧
    exec (.paramAdd 3 false 50) State.reset = .next t ∧ exec (.paramAdd 3 false 0xFFFFFFCE#32) t = .next u :=
  ⟨_, _, _, raw_reset, rfl, by decide, by decide, by decide, rfl, rfl⟩

theorem witness_DlPush : LineReady stopped 0 ∧ LineReady stopped 15 := ⟨lineReady_first, lineReady_last⟩

theorem witness_DlGetLastAndSetDelay : LineReady stopped 0 ∧ LineReady (lineAt 9 2047 1 []) 9 :=
  ⟨lineReady_first, lineReady_longest⟩

theorem witness_DlProcess : LineReady (lineAt 9 2047 1 []) 9 ∧
    ((lineAt 9 2047 1 []).delay.line 9).w < (lineAt 9 2047 1 []).cap ∧ ((lineAt 9 2047 1 []).delay.line 9).len = 1 :=
  ⟨lineReady_longest, by decide, by decide⟩

theorem witness_DlClear : LineReady stopped 15 ∧ 2047 < stopped.cap ∧
    ¬(15 * stopped.cap ≤ 30719 ∧ 30719 < (15 + 1) * stopped.cap) := ⟨lineReady_last, by decide, by decide⟩

/-- The shortest and the longest delay of the property. -/
theorem witness_DelayRoundTrip : LineReady stopped 15 ∧ (stopped.delay.line 15).w < stopped.cap ∧
    ([] : List F32).length + 1 < stopped.cap ∧ (List.replicate 2046 Fp.one).length + 1 < stopped.cap :=
  ⟨lineReady_last, by decide, by decide, by rw [List.length_replicate]; decide⟩

theorem witness_DelayRealised : 15 < stopped.nLines ∧ stopped.delay.lines.length = stopped.nLines ∧ 0 < stopped.cap ∧
    2047 < stopped.cap := by decide

theorem witness_AllocGetAndRelease :
    (exhausted.mode = .stop ∧ AllocatorConsistent exhausted ∧ exhausted.alloc.avail = []) ∧
    (stopped.mode = .stop ∧ AllocatorConsistent stopped ∧ stopped.alloc.avail = 8 :: [9, 10, 11, 12, 13, 14, 15]) ∧
    holds8.mode = .stop ∧ AllocatorConsistent holds8 ∧ holds8.alloc.owner[8]? = some .host :=
  ⟨⟨rfl, alloc_exhausted, rfl⟩, ⟨rfl, alloc_stopped, by decide⟩, rfl, alloc_holds8, by decide⟩

theorem witness_AllocatorExhaustion : (stopped.mode = .stop ∧ AllocatorConsistent stopped) ∧
    (exhausted.mode = .stop ∧ AllocatorConsistent exhausted) ∧ exhausted.alloc.owner[15]? = some .host :=
  ⟨⟨rfl, alloc_stopped⟩, ⟨rfl, alloc_exhausted⟩, by decide⟩

/-- A full pool, its last line and one past it, and a held line. -/
theorem witness_ReleaseUndoesCheckout : let h : Holding :=
      ⟨resetAllocator Config.default.val, State.reset.voices.bow, false⟩
    (1 : Fin 2) ∈ lineSlots .bow ∧ (1 : Fin 2) ∉ lineSlots .string ∧ h.alloc.avail.Nodup ∧
    (∀ l ∈ h.alloc.avail, l < h.alloc.owner.length) ∧ h.alloc.avail[lineOrder .bow 7 1]? = some 15 ∧
    8 ∉ h.alloc.avail.take (8 * (lineSlots .string).length) ∧
    (7 ∈ heldLines .string State.reset.voices.string ∧ 7 < State.reset.alloc.owner.length ∧
      8 ∉ heldLines .string State.reset.voices.string) := by decide

/-- The greatest delay below one half, one half itself, and a NaN. -/
theorem witness_TuneCommands : stopped.mode = .stop ∧ familyOf 0 = some .string ∧ familyOf 2 = some .bow ∧
    Fp.isNaN 0x7FC00000#32 = true ∧ Fp.lt 0x3EFFFFFF#32 Fp.half = true ∧
    (Fp.isNaN Fp.half = false ∧ Fp.lt Fp.half Fp.half = false) := by decide

theorem witness_TuningSplitRange : Fp.le Fp.tfDMax Fp.tfDMax = true ∧ Fp.le Fp.tfDMax 0x7F800000#32 = true := by decide

theorem witness_LossSettings : stopped.mode = .stop ∧ (familyOf 2 = some .bow ∧ Family.bow ≠ .reed) ∧
    familyOf 1 = some .reed := by decide

theorem witness_LossProcess : stopped.mode = .stop ∧ familyOf 0 = some .string ∧ (stopped.voice .string 7).loss.ty = .lpf1 ∧
    ((voiceAs .string 0 fun V => { V with loss := { V.loss with ty := .lpf2 } }).voice .string 0).loss.ty = .lpf2 := by
  decide

/-- The least number above 0, and a chain that is not bypassed. -/
theorem witness_PhaseDelays : stopped.mode = .stop ∧ familyOf 0 = some .string ∧ Fp.lt Fp.zero 0x80000000#32 = false ∧
    Fp.lt Fp.zero 0x00000001#32 = true ∧ (stopped.voice .string 7).loss.ty = .lpf1 ∧
    ((voiceAs .string 0 fun V => { V with loss := { V.loss with ty := .lpf2 } }).voice .string 0).loss.ty = .lpf2 ∧
    (stopped.voice .string 7).disp.bypass = true ∧
    ((voiceAs .string 0 fun V => { V with disp := { V.disp with bypass := false } }).voice .string 0).disp.bypass =
      false := by decide

theorem witness_DispersionSettings : stopped.mode = .stop ∧ familyOf 1 = some .reed ∧ 4 ≤ 4 ∧ 5 ≤ 5 := by decide

theorem witness_DispProcess : stopped.mode = .stop ∧ familyOf 0 = some .string ∧
    (stopped.voice .string 7).disp.bypass = true ∧
    (let s := voiceAs .string 0 fun V => { V with disp := { V.disp with bypass := false } }
     s.mode = .stop ∧ (s.voice .string 0).disp.bypass = false ∧ (s.voice .string 0).disp.m ≤ 4) := by decide

theorem witness_NoiseCommands : stopped.mode = .stop ∧ 1 ≠ 0 ∧ 3 ≠ 0 := by decide

theorem witness_NoiseRange : 0x7FFFFFC0 ≤ (0x7FFFFFC0#32).toNat ∧ (0x7FFFFFFF#32).toNat ≤ 0x7FFFFFFF := by decide

/-- The greatest and the least positive finite numbers. -/
theorem witness_ArithmeticRoundsOnce : finite 0x7F7FFFFF#32 ∧ finite 0x00000001#32 ∧ value 0x00000001#32 ≠ 0 ∧
    (finite Fp.one ∧ finite Fp.minusOne ∧ value Fp.one + value Fp.minusOne = 0 ∧ value Fp.one - value Fp.one = 0) := by
  refine ⟨by unfold finite; decide, by unfold finite; decide, ?_, by unfold finite; decide, by unfold finite; decide, ?_,
    sub_self _⟩
  · have h : Fp.signedSignificand 0x00000001#32 = 1 := by decide
    unfold value
    rw [h]
    exact mul_ne_zero (by norm_num) (zpow_ne_zero _ (by norm_num))
  · have h : Fp.signedSignificand Fp.minusOne = -Fp.signedSignificand Fp.one ∧
        Fp.exponent Fp.minusOne = Fp.exponent Fp.one := by decide
    unfold value
    rw [h.1, h.2]
    push_cast
    ring

theorem witness_ConfigurationLaws : Fp.isNaN 0x7F800000#32 = false ∧ Fp.isNaN 0x80000000#32 = false := by decide

theorem witness_SpecialOperands : Fp.isNaN 0x7F800001#32 = true ∧ Fp.isInf 0xFF800000#32 = true ∧
    Fp.isZero 0x80000000#32 = true ∧ (Fp.isNaN 0x00000001#32 = false ∧ Fp.isZero 0x00000001#32 = false) ∧
    finite 0xFF7FFFFF#32 ∧ (finite 0x80000000#32 ∧ value 0x80000000#32 = (0 : ℤ)) ∧
    (Fp.isNaN 0x7F800000#32 = false ∧ Fp.isNeg 0x7F800000#32 = false ∧ Fp.isNeg 0xFF800000#32 = true) ∧
    (Fp.lt Fp.one Fp.two = true ∧ Fp.lt Fp.one Fp.one = false ∧ Fp.le Fp.one Fp.one = true ∧ Fp.isNaN Fp.one = false) := by
  have h : Fp.signedSignificand 0x80000000#32 = 0 := by decide
  refine ⟨by decide, by decide, by decide, by decide, by unfold finite; decide, ⟨by unfold finite; decide, ?_⟩, by decide, by decide⟩
  unfold value
  rw [h]
  norm_num

theorem witness_BlockTickAndDrain :
    (State.reset.phase = .idle ∧ ({ State.reset with stopReq := true } : State).stopReq = true) ∧
    (stopped.phase = .idle ∧ stopped.mode = .stop) ∧
    (State.reset.phase = .idle ∧ State.reset.stopReq = false ∧ State.reset.mode = .run) ∧
    ({ State.reset with phase := .swap 3 } : State).phase = .swap 3 ∧ (2 : Fin 4).val < 3 := by decide

/-- A slot of each class, and a family whose voices must stay. -/
theorem witness_CallbackStep : ∃ r0 r1 r2 r5 r9 r24,
    (({ State.reset with phase := .callback 0 } : State).phase = .callback 0 ∧
      State.reset.cfg.val.table[(0 : Fin 128).val]? = some r0 ∧ r0.cb = .live ∧ r0.fam = .string ∧ Family.bow ≠ r0.fam) ∧
    (State.reset.cfg.val.table[(1 : Fin 128).val]? = some r1 ∧ r1.cb = .loss ∧ ∀ role, r1.cb ≠ .env role) ∧
    (State.reset.cfg.val.table[(2 : Fin 128).val]? = some r2 ∧ r2.cb = .lossType) ∧
    (liveValue r2 (State.reset.rawAt 2) = .int 0 ∧
      liveValue r2 (({ State.reset with raw := State.reset.raw.set 2 1 } : State).rawAt 2) = .int 1) ∧
    (State.reset.cfg.val.table[(5 : Fin 128).val]? = some r5 ∧ r5.cb = .disp .groupDelay) ∧
    (State.reset.cfg.val.table[(9 : Fin 128).val]? = some r9 ∧ r9.cb = .env .attack ∧ r9.fam = .reed) ∧
    (State.reset.cfg.val.table[(24 : Fin 128).val]? = some r24 ∧ r24.cb = .env .attack ∧ r24.fam = .bow) ∧
    State.reset.live.length = State.reset.cfg.val.table.length :=
  ⟨_, _, _, _, _, _, ⟨rfl, rfl, rfl, rfl, by decide⟩, ⟨rfl, rfl, fun _ => nofun⟩, ⟨rfl, rfl⟩, ⟨by decide, by decide⟩, ⟨rfl, rfl⟩, ⟨rfl, rfl, rfl⟩,
    ⟨rfl, rfl, rfl⟩, by decide⟩

theorem witness_ApplyStep : ({ State.reset with phase := .apply } : State).phase = .apply := rfl

/-- The state with one String voice used. -/
def oneVoice : State :=
  { State.reset with phase := .render, pools := State.reset.pools.set .string ⟨[0], [1, 2, 3, 4, 5, 6, 7], 0⟩ }

theorem witness_RenderStep : (({ State.reset with phase := .render } : State).phase = .render ∧
      PoolsPartition { State.reset with phase := .render } ∧ (State.reset.pool .string).used = []) ∧
    oneVoice.phase = .render ∧ PoolsPartition oneVoice ∧
    (∃ ys, voiceBlocks .string (oneVoice.pool .string).used oneVoice = [ys]) ∧
    (1 : Fin 8) ∉ (oneVoice.pool .string).used ∧ Family.reed ≠ oneVoice.active :=
  ⟨⟨rfl, pools_reset, by decide⟩, rfl, by intro f; cases f <;> decide, ⟨_, rfl⟩, by decide, by decide⟩

theorem witness_EmissionHistory : (∃ t, step State.reset = .next t) ∧
    (∃ t, step (sending [0]) = .next t ∧ HostMoves (sending [0])) ∧
    (∃ t, step (byDefault [0]) = .next t ∧ HostMoves (byDefault [0])) ∧
    ∃ t, step { State.reset with sched := [.reset] } = .next t := ⟨⟨_, rfl⟩, ⟨_, rfl, .inl rfl⟩, ⟨_, rfl, .inr ⟨rfl, by decide⟩⟩, _, rfl⟩

/-- A voice without a line; the last sample of a burst and the first after it; both lines of a Bow voice. -/
theorem witness_VoiceSteps (d : DelayPool) (x : F32) : let V := resetVoice Config.default.val .string
    ((0 : Fin 2) ∈ lineSlots .string ∧ V.line 0 = none) ∧ ((1 : Fin 2) ∈ lineSlots .bow ∧ V.line 1 = none) ∧
    (∃ W out, FilteredBy { V with line0 := some 0, burstLen := 107, n := 106 } x W out) ∧ 106 < 107 ∧
    (∃ W out, FilteredBy { V with line0 := some 0, burstLen := 107, n := 107 } x W out) ∧ 107 ≤ 107 ∧
    ∃ W out, FilteredBy { V with line0 := some 0, line1 := some 1 } (d.getLast 2048 1) W out :=
  ⟨⟨by decide, rfl⟩, ⟨by decide, rfl⟩, ⟨_, _, rfl, rfl⟩, by decide, ⟨_, _, rfl, rfl⟩, by decide, _, _, rfl, rfl⟩

/-- Decay times that are and are not above 0, and voices with and without their lines. -/
theorem witness_VoiceNoteOn :
    Fp.lt Fp.zero (liveF State.reset.voiceEnv .strDecayMs) = true ∧
    Fp.lt Fp.zero (liveF { State.reset.voiceEnv with live := State.reset.live.set 0 (.f32 0) } .strDecayMs) = false ∧
    (State.reset.voice .string 7).line0 = some 7 ∧ (State.reset.voice .reed 0).line0 = none ∧
    (let V := { State.reset.voice .bow 0 with line0 := some 0, line1 := some 1 }
     V.line0 = some 0 ∧ V.line1 = some 1) ∧
    (let V := (holds8.switchTo .bow).voice .bow 7
     V.line0 = some 15 ∧ V.line1 = none) ∧ Family.reed ≠ .string := by decide

/-- That Bow voice, reached when the HOST holds one line: its NoteOn clears the line it holds and sets no delay (log 19). -/
theorem test_note_on_bow_one_line :
    let s := { (holds8.switchTo .bow) with delay := { mem := [(30725, 0x3F800000#32)], lines := stopped.delay.lines.set 15 ⟨6, 3⟩ } }
    let t := s.startVoice .bow 7 0 55 100
    t.delay.mem = [] ∧ t.delay.line 15 = ⟨0, 3⟩ := by decide +kernel

theorem witness_VoiceManager : (State.reset.pool .string).unused = 0 :: [1, 2, 3, 4, 5, 6, 7] ∧
    (let s := { State.reset with pools := State.reset.pools.set .string ⟨[0, 1, 2, 3, 4, 5, 6, 7], [], 7⟩ }
     (s.pool .string).unused = []) ∧
    (0 : Fin 8) ∈ (oneVoice.pool .string).used ∧ (oneVoice.voice .string 0).note = 0 ∧
    ¬((1 : Fin 8) ∈ (oneVoice.pool .string).used ∧ (oneVoice.voice .string 1).note = 0) ∧ Family.reed ≠ .string := by
  decide

theorem witness_RemovalLoop : ([0, 1, 2] : List (Fin 8)).Nodup ∧ allVoices.Nodup ∧
    (∀ u ∈ ([1, 3] : List (Fin 8)), u ∉ ([0, 2] : List (Fin 8))) ∧ (0 : Fin 8) ∈ ([0, 2] : List (Fin 8)) := by decide

/-- The active family, another one, and a pool that the HOST has left too small for Bow. -/
theorem witness_InstrumentSwitch : Family.string = State.reset.active ∧ Family.bow ≠ exhausted.active ∧
    (1 : Fin 2) ∈ lineSlots .bow ∧ ((exhausted.switchTo .bow).voice .bow 4).line 1 = none ∧
    ({ exhausted with allocFail := true } : State).allocFail = true ∧ Family.reed ≠ exhausted.active ∧
    Family.reed ≠ .bow := by decide

/-- Besides, a family without a type row and one with two, of which the last is LPF2. -/
theorem witness_ResetState : (∃ row, Config.default.val.table[30]? = some row) ∧ 15 < State.reset.nLines ∧
    (∀ row ∈ Config.default.val.table, ¬(row.cb = .lossType ∧ row.fam = .reed)) ∧
    (∃ row, twoTypes.val.table[31]? = some row ∧ row.cb = .lossType ∧ row.fam = .string ∧
      (State.resetOf twoTypes).live[31]? = some (.int 1)) ∧
    (State.reset.live[2]? = some (.int 0) ∧ (State.reset.live[28]? = some (.int 0))) :=
  ⟨⟨_, rfl⟩, by decide, by decide, ⟨_, rfl, rfl, rfl, by decide⟩, by decide⟩

theorem witness_VoiceBlockPeak : ({ resetVoice Config.default.val .reed with sustaining := true } : Voice).sustaining = true :=
  rfl

/-- A step of each kind from a state that meets the invariants: of the ENGINE, of the HOST, and the reset. -/
theorem witness_steps : (∃ t, step State.reset = .next t) ∧ (∃ t, step (sending [0x01004564#32]) = .next t) ∧
    ∃ t, step { State.reset with sched := [.reset] } = .next t := ⟨⟨_, rfl⟩, ⟨_, rfl⟩, _, rfl⟩

theorem witness_StepKeepsDelayMemory :
    MemoryCanonical State.reset ∧ LinesInBounds State.reset ∧ ∃ t, step State.reset = .next t :=
  ⟨inv_reset.memory, inv_reset.bounds, _, rfl⟩

theorem witness_StepKeepsPoolPartition : PoolsPartition State.reset ∧ ∃ t, step State.reset = .next t :=
  ⟨inv_reset.pools, _, rfl⟩

theorem witness_StepKeepsAllocator : AllocatorConsistent State.reset ∧ ∃ t, step State.reset = .next t :=
  ⟨inv_reset.alloc, _, rfl⟩

theorem witness_StepKeepsParameters :
    RawInRange State.reset ∧ LiveInRange State.reset ∧ ∃ t, step State.reset = .next t :=
  ⟨inv_reset.raw, inv_reset.live, _, rfl⟩

theorem witness_StepKeepsPhase : PhaseConsistent State.reset ∧ ∃ t, step State.reset = .next t :=
  ⟨inv_reset.phase, _, rfl⟩

theorem witness_StepKeepsBurst : BurstInRange State.reset ∧ ∃ t, step State.reset = .next t :=
  ⟨inv_reset.burst, _, rfl⟩

end Sys2Proof.Tests
end

section
/-! Bit patterns of binary32: the sign and the 31-bit magnitude say everything that the predicates, unary minus, |x|, `pack`
and the comparisons of Machine/Binary32.lean see of a number. -/

namespace Sys2Proof.Arith

open Sys2Proof Sys2Proof.Claims

/-! ### Sign and magnitude -/

/-- The pattern without its sign bit. -/
def mag (x : F32) : Nat := x.toNat % 2 ^ 31

theorem mag_lt (x : F32) : mag x < 2 ^ 31 := Nat.mod_lt _ (by norm_num)

theorem isNeg_eq (x : F32) : Fp.isNeg x = decide (2 ^ 31 ≤ x.toNat) := BitVec.msb_eq_decide x

theorem toNat_eq (x : F32) : x.toNat = (if Fp.isNeg x then 2 ^ 31 else 0) + mag x := by
  have := x.isLt
  simp only [isNeg_eq, mag, decide_eq_true_eq]
  split <;> omega

theorem eq_of_sign_mag {x y : F32} (hs : Fp.isNeg x = Fp.isNeg y) (hm : mag x = mag y) : x = y :=
  BitVec.eq_of_toNat_eq (by rw [toNat_eq x, toNat_eq y, hs, hm])

theorem expField_eq (x : F32) : Fp.expField x = mag x / 2 ^ 23 := by
  simp only [Fp.expField, mag]; omega

theorem fracField_eq (x : F32) : Fp.fracField x = mag x % 2 ^ 23 := by
  simp only [Fp.fracField, mag]; omega

/-! ### The classes of numbers -/

theorem isZero_eq (x : F32) : Fp.isZero x = decide (mag x = 0) := by
  rw [Bool.eq_iff_iff, decide_eq_true_eq]
  simp only [Fp.isZero, mag, beq_iff_eq]

theorem isInf_eq (x : F32) : Fp.isInf x = decide (mag x = 0x7F800000) := by
  have := mag_lt x
  rw [Bool.eq_iff_iff]
  simp only [Fp.isInf, expField_eq, fracField_eq, Bool.and_eq_true, beq_iff_eq, decide_eq_true_eq]
  omega

theorem isNaN_eq (x : F32) : Fp.isNaN x = decide (0x7F800000 < mag x) := by
  have := mag_lt x
  rw [Bool.eq_iff_iff]
  simp only [Fp.isNaN, expField_eq, fracField_eq, Bool.and_eq_true, beq_iff_eq, bne_iff_ne, decide_eq_true_eq]
  omega

theorem finite_iff (x : F32) : finite x ↔ mag x < 0x7F800000 := by
  simp only [finite, isNaN_eq, isInf_eq, decide_eq_false_iff_not]
  omega

theorem finite_of_isZero {x : F32} (h : Fp.isZero x = true) : finite x := by
  rw [isZero_eq, decide_eq_true_eq] at h
  rw [finite_iff, h]
  norm_num

theorem not_isNaN_of_isInf {x : F32} (h : Fp.isInf x = true) : Fp.isNaN x = false := by
  rw [isInf_eq, decide_eq_true_eq] at h
  rw [isNaN_eq, h]
  rfl

theorem not_isZero_of_isInf {x : F32} (h : Fp.isInf x = true) : Fp.isZero x = false := by
  rw [isInf_eq, decide_eq_true_eq] at h
  rw [isZero_eq, h]
  rfl

theorem expField_or (x y : F32) : Fp.expField (x ||| y) = Fp.expField x ||| Fp.expField y := by
  simp only [Fp.expField, BitVec.toNat_or, ← Nat.shiftRight_eq_div_pow, Nat.shiftRight_or_distrib, Nat.or_mod_two_pow]

theorem fracField_or (x y : F32) : Fp.fracField (x ||| y) = Fp.fracField x ||| Fp.fracField y := by
  simp only [Fp.fracField, BitVec.toNat_or, Nat.or_mod_two_pow]

/-- An OR with an exponent field of ones is a NaN as soon as one operand has a fraction bit set. -/
theorem isNaN_or {w c : F32} (hc : Fp.expField c = 255) (h : Fp.fracField w ≠ 0 ∨ Fp.fracField c ≠ 0) :
    Fp.isNaN (w ||| c) = true := by
  have hexp : Fp.expField w ||| 255 = 255 := by
    have hw : Fp.expField w < 2 ^ 8 := Nat.mod_lt _ (by norm_num)
    exact le_antisymm (Nat.le_of_lt_succ (Nat.or_lt_two_pow hw (by norm_num))) Nat.right_le_or
  simp only [Fp.isNaN, expField_or, fracField_or, hc, hexp, Bool.and_eq_true, beq_self_eq_true, bne_iff_ne, ne_eq,
    Nat.or_eq_zero_iff, true_and]
  tauto

/-- The NaN that an operation answers is one, whatever its free bits are (log 6). -/
@[simp] theorem isNaN_nanOf (op : Config.FpOp) (x y : F32) : Fp.isNaN (Fp.nanOf op x y) = true := by
  generalize hw : Config.nanBits op x y = w
  rw [Fp.nanOf, Fp.nanFrom, hw]
  split
  · exact isNaN_or (by decide) (.inr (by decide))
  · rename_i hfrac
    refine isNaN_or (by decide) (.inl fun h0 => hfrac (BitVec.eq_of_toNat_eq ?_))
    rw [BitVec.toNat_and]
    exact (Nat.and_two_pow_sub_one_eq_mod w.toNat 23).trans h0

/-! ### Unary minus and |x| -/

@[simp] theorem isNeg_neg (x : F32) : Fp.isNeg (Fp.neg x) = !Fp.isNeg x := by
  rw [Fp.isNeg, Fp.neg, BitVec.msb_xor]
  exact Bool.xor_true _

@[simp] theorem mag_neg (x : F32) : mag (Fp.neg x) = mag x := by
  rw [mag, Fp.neg, BitVec.toNat_xor, Nat.xor_mod_two_pow]
  exact Nat.xor_zero _

theorem toNat_abs (x : F32) : (Fp.abs x).toNat = mag x := by
  simp only [Fp.abs, BitVec.toNat_and, mag]
  exact Nat.and_two_pow_sub_one_eq_mod _ 31

@[simp] theorem isNeg_abs (x : F32) : Fp.isNeg (Fp.abs x) = false := by
  have := mag_lt x
  simp only [isNeg_eq, toNat_abs, decide_eq_false_iff_not]
  omega

@[simp] theorem mag_abs (x : F32) : mag (Fp.abs x) = mag x := by
  rw [mag, toNat_abs, Nat.mod_eq_of_lt (mag_lt x)]

@[simp] theorem neg_neg_self (x : F32) : Fp.neg (Fp.neg x) = x := eq_of_sign_mag (by simp) (by simp)

@[simp] theorem isNaN_neg (x : F32) : Fp.isNaN (Fp.neg x) = Fp.isNaN x := by simp only [isNaN_eq, mag_neg]
@[simp] theorem isInf_neg (x : F32) : Fp.isInf (Fp.neg x) = Fp.isInf x := by simp only [isInf_eq, mag_neg]
@[simp] theorem isNaN_abs (x : F32) : Fp.isNaN (Fp.abs x) = Fp.isNaN x := by simp only [isNaN_eq, mag_abs]
@[simp] theorem isInf_abs (x : F32) : Fp.isInf (Fp.abs x) = Fp.isInf x := by simp only [isInf_eq, mag_abs]
@[simp] theorem isZero_abs (x : F32) : Fp.isZero (Fp.abs x) = Fp.isZero x := by simp only [isZero_eq, mag_abs]
@[simp] theorem finite_neg (x : F32) : finite (Fp.neg x) ↔ finite x := by simp only [finite_iff, mag_neg]

/-! ### pack -/

theorem toNat_pack (b : Bool) (k : Nat) :
    (Fp.pack b k).toNat = (if b then 2 ^ 31 else 0) + min k 0x7F800000 := by
  have : min k 0x7F800000 ≤ 0x7F800000 := min_le_right _ _
  rw [Fp.pack, BitVec.toNat_ofNat, Nat.mod_eq_of_lt]
  split <;> omega

@[simp] theorem isNeg_pack (b : Bool) (k : Nat) : Fp.isNeg (Fp.pack b k) = b := by
  have : min k 0x7F800000 ≤ 0x7F800000 := min_le_right _ _
  rw [isNeg_eq, toNat_pack]
  cases b <;> simp

@[simp] theorem mag_pack (b : Bool) (k : Nat) : mag (Fp.pack b k) = min k 0x7F800000 := by
  have : min k 0x7F800000 ≤ 0x7F800000 := min_le_right _ _
  rw [mag, toNat_pack]
  cases b <;> simp

theorem isNaN_pack (b : Bool) (k : Nat) : Fp.isNaN (Fp.pack b k) = false := by
  simp [isNaN_eq]

theorem isInf_pack (b : Bool) (k : Nat) : Fp.isInf (Fp.pack b k) = decide (0x7F800000 ≤ k) := by
  simp [isInf_eq]

theorem eq_pack_of_isInf {x : F32} (h : Fp.isInf x = true) : x = Fp.pack (Fp.isNeg x) 0x7F800000 := by
  rw [isInf_eq, decide_eq_true_eq] at h
  exact eq_of_sign_mag (by simp) (by simp [h])

theorem eq_pack_of_isZero {x : F32} (h : Fp.isZero x = true) : x = Fp.pack (Fp.isNeg x) 0 := by
  rw [isZero_eq, decide_eq_true_eq] at h
  exact eq_of_sign_mag (by simp) (by simp [h])

end Sys2Proof.Arith
end

section
/-! Rounding (00_scope R12): the magnitudes of the finite numbers form a grid, `Fp.round` is a nearest point of it, and so
every operator of Machine/Binary32.lean is the exact result rounded once. -/

namespace Sys2Proof.Arith

open Sys2Proof Sys2Proof.Claims

/-! ### A sign and a magnitude as a rational -/

/-- v with a sign. -/
def signed (b : Bool) (v : ℚ) : ℚ := if b then -v else v

@[simp] theorem abs_signed (b : Bool) (v : ℚ) : |signed b v| = |v| := by cases b <;> simp [signed]

theorem signed_sub (b : Bool) (v w : ℚ) : signed b v - signed b w = signed b (v - w) := by
  cases b <;> simp [signed, neg_add_eq_sub]

theorem signed_signed (b : Bool) (v : ℚ) : signed b (signed b v) = v := by cases b <;> simp [signed]

theorem signed_not (b : Bool) (v : ℚ) : signed (!b) v = -signed b v := by cases b <;> simp [signed]

theorem signed_mul (a b : Bool) (v w : ℚ) : signed (a != b) (v * w) = signed a v * signed b w := by
  cases a <;> cases b <;> simp [signed]

theorem signed_div (a b : Bool) (v w : ℚ) : signed (a != b) (v / w) = signed a v / signed b w := by
  cases a <;> cases b <;> simp [signed, neg_div, div_neg]

theorem signed_eq_zero (b : Bool) (v : ℚ) : signed b v = 0 ↔ v = 0 := by cases b <;> simp [signed]

/-- The sign of a number that is not 0 is its sign flag. -/
theorem sign_eq {b : Bool} {v : ℚ} (hv : 0 ≤ v) (h0 : signed b v ≠ 0) : b = decide (signed b v < 0) := by
  have hpos : 0 < v := lt_of_le_of_ne hv fun h => h0 ((signed_eq_zero b v).2 h.symm)
  cases b
  · simp [signed, hv]
  · simp [signed, hpos]

/-! ### The grid of magnitudes -/

/-- The last place of the e-th range of magnitudes, from the subnormals (and the range above them) up. -/
def ulp (e : Nat) : ℚ := 2 ^ ((e : ℤ) - 149)

theorem ulp_pos (e : Nat) : 0 < ulp e := zpow_pos (by norm_num) _

theorem ulp_add (e d : Nat) : ulp (e + d) = 2 ^ d * ulp e := by
  rw [ulp, ulp, ← zpow_natCast, ← zpow_add₀ (by norm_num)]
  congr 1
  push_cast
  ring

theorem ulp_mono {d e : Nat} (h : d ≤ e) : ulp d ≤ ulp e := by
  obtain ⟨c, rfl⟩ := Nat.exists_eq_add_of_le h
  rw [ulp_add]
  exact le_mul_of_one_le_left (ulp_pos d).le (one_le_pow₀ (by norm_num))

theorem two_ulp_le {d e : Nat} (h : d < e) : 2 * ulp d ≤ ulp e := by
  calc 2 * ulp d = ulp (d + 1) := by rw [ulp_add, pow_one]
    _ ≤ ulp e := ulp_mono h

/-- The number that the magnitude bits k stand for. -/
def gridValue (k : Nat) : ℚ := ((if k < 2 ^ 23 then k else 2 ^ 23 + k % 2 ^ 23 : Nat) : ℚ) * ulp (k / 2 ^ 23 - 1)

/-- q last places of range e, up to the least number of the next range, which carries into the exponent field. -/
theorem gridValue_add {e q : Nat} (hq : q ≤ 2 ^ 24) (h : e = 0 ∨ 2 ^ 23 ≤ q) :
    gridValue (e * 2 ^ 23 + q) = q * ulp e := by
  rcases Nat.lt_or_ge q (2 ^ 23) with hlow | hhigh
  · obtain rfl : e = 0 := by omega
    rw [gridValue, if_pos (by omega), show (0 * 2 ^ 23 + q) / 2 ^ 23 - 1 = 0 by omega, Nat.zero_mul, Nat.zero_add]
  · rcases Nat.lt_or_ge q (2 ^ 24) with hmid | htop
    · rw [gridValue, if_neg (by omega), show (e * 2 ^ 23 + q) / 2 ^ 23 - 1 = e by omega,
        show 2 ^ 23 + (e * 2 ^ 23 + q) % 2 ^ 23 = q by omega]
    · obtain rfl : q = 2 ^ 24 := by omega
      rw [gridValue, if_neg (by omega), show (e * 2 ^ 23 + 2 ^ 24) / 2 ^ 23 - 1 = e + 1 by omega,
        show 2 ^ 23 + (e * 2 ^ 23 + 2 ^ 24) % 2 ^ 23 = 2 ^ 23 by omega, ulp_add]
      push_cast
      ring

/-- Every magnitude lies in one range. -/
theorem exists_range (k : Nat) : ∃ e q, k = e * 2 ^ 23 + q ∧ q < 2 ^ 24 ∧ (e = 0 ∨ 2 ^ 23 ≤ q) := by
  rcases Nat.lt_or_ge k (2 ^ 24) with h | h
  · exact ⟨0, k, by omega, h, .inl rfl⟩
  · exact ⟨k / 2 ^ 23 - 1, 2 ^ 23 + k % 2 ^ 23, by omega, by omega, .inr (by omega)⟩

theorem gridValue_strictMono : StrictMono gridValue := by
  refine strictMono_nat_of_lt_succ fun k => ?_
  obtain ⟨e, q, rfl, hq, h⟩ := exists_range k
  rw [Nat.add_assoc, gridValue_add hq.le h, gridValue_add hq (by omega)]
  exact mul_lt_mul_of_pos_right (by push_cast; linarith) (ulp_pos e)

@[simp] theorem gridValue_zero : gridValue 0 = 0 := by simp [gridValue]

theorem gridValue_nonneg (k : Nat) : 0 ≤ gridValue k := by
  rw [← gridValue_zero]
  exact gridValue_strictMono.monotone k.zero_le

/-- Against the last place of a range, a magnitude is a multiple of it or lies below the whole range. -/
theorem gridValue_multiple_or_below (e k : Nat) :
    (∃ j : ℤ, gridValue k = j * ulp e) ∨ (e ≠ 0 ∧ gridValue k < 2 ^ 23 * ulp e) := by
  obtain ⟨d, q, rfl, hq, h⟩ := exists_range k
  rw [gridValue_add hq.le h]
  rcases Nat.lt_or_ge d e with hd | hd
  · refine .inr ⟨by omega, ?_⟩
    calc (q : ℚ) * ulp d < 2 ^ 24 * ulp d := mul_lt_mul_of_pos_right (by exact_mod_cast hq) (ulp_pos d)
      _ = 2 ^ 23 * (2 * ulp d) := by ring
      _ ≤ 2 ^ 23 * ulp e := mul_le_mul_of_nonneg_left (two_ulp_le hd) (by norm_num)
  · obtain ⟨c, rfl⟩ := Nat.exists_eq_add_of_le hd
    exact .inl ⟨q * 2 ^ c, by rw [ulp_add]; push_cast; ring⟩

/-! ### The value of a pattern -/

theorem value_eq (x : F32) : value x = signed (Fp.isNeg x) (Fp.significand x * (2 : ℚ) ^ Fp.exponent x) := by
  cases h : Fp.isNeg x <;> simp [value, Fp.signedSignificand, signed, h]

theorem significand_lt (x : F32) : Fp.significand x < 2 ^ 24 := by
  simp only [Fp.significand, fracField_eq]
  split <;> omega

theorem significand_eq_zero_iff (x : F32) : Fp.significand x = 0 ↔ Fp.isZero x = true := by
  simp only [Fp.significand, expField_eq, fracField_eq, isZero_eq, decide_eq_true_eq]
  split <;> omega

theorem magnitude_eq (x : F32) : Fp.significand x * (2 : ℚ) ^ Fp.exponent x = gridValue (mag x) := by
  simp only [Fp.significand, Fp.exponent, expField_eq, fracField_eq, gridValue, ulp]
  split
  · rename_i h
    rw [if_pos (by omega), h, show mag x % 2 ^ 23 = mag x by omega]
    norm_num
  · rename_i h
    rw [if_neg (by omega)]
    congr 2
    omega

theorem value_eq_signed (x : F32) : value x = signed (Fp.isNeg x) (gridValue (mag x)) := by
  rw [value_eq, magnitude_eq]

theorem value_eq_zero_iff (x : F32) : value x = 0 ↔ Fp.isZero x = true := by
  rw [value_eq_signed, signed_eq_zero, isZero_eq, decide_eq_true_eq, ← gridValue_zero,
    gridValue_strictMono.injective.eq_iff]

theorem value_neg (x : F32) : value (Fp.neg x) = -value x := by
  simp [value_eq_signed, signed_not]

theorem value_pack {b : Bool} {k : Nat} (h : k ≤ 0x7F800000) : value (Fp.pack b k) = signed b (gridValue k) := by
  simp [value_eq_signed, h]

/-- Against the last place of a range, a number is a multiple of it or lies below the whole range. -/
theorem value_multiple_or_below (e : Nat) (x : F32) :
    (∃ j : ℤ, value x = j * ulp e) ∨ (e ≠ 0 ∧ value x < 2 ^ 23 * ulp e) := by
  rw [value_eq_signed]
  rcases gridValue_multiple_or_below e (mag x) with ⟨j, hj⟩ | ⟨he, hlt⟩
  · cases Fp.isNeg x
    · exact .inl ⟨j, hj⟩
    · exact .inl ⟨-j, by simp [signed, hj]⟩
  · refine .inr ⟨he, lt_of_le_of_lt ?_ hlt⟩
    exact (le_abs_self _).trans (by rw [abs_signed, abs_of_nonneg (gridValue_nonneg _)])

/-! ### A rational rounded to an integer -/

/-- q is the integer nearest t, the even one of two. -/
def IsRne (t : ℚ) (q : Nat) : Prop := |(q : ℚ) - t| ≤ 1 / 2 ∧ (|(q : ℚ) - t| = 1 / 2 → q % 2 = 0)

theorem isRne_self (q : Nat) : IsRne q q := by norm_num [IsRne]

/-- No integer is nearer, and at a tie q is even. -/
theorem IsRne.nearest {t : ℚ} {q : Nat} (h : IsRne t q) (j : ℤ) :
    |(q : ℚ) - t| ≤ |j - t| ∧ (|(q : ℚ) - t| = |j - t| → (j : ℚ) ≠ q → q % 2 = 0) := by
  obtain ⟨hhalf, heven⟩ := h
  by_cases hj : j = q
  · subst hj
    simp
  · have hone : (1 : ℚ) ≤ |(j : ℚ) - q| := by exact_mod_cast Int.one_le_abs (sub_ne_zero.2 hj)
    have htri : |(j : ℚ) - q| ≤ |(j : ℚ) - t| + |(q : ℚ) - t| := by
      rw [abs_sub_comm (q : ℚ) t]
      exact abs_sub_le _ _ _
    exact ⟨by linarith, fun htie _ => heven (by linarith)⟩

theorem IsRne.le_of_le {t : ℚ} {q n : Nat} (h : IsRne t q) (ht : t ≤ n) : q ≤ n := by
  have := (abs_le.1 h.1).2
  have : (q : ℚ) < n + 1 := by linarith
  exact Nat.lt_succ_iff.1 (by exact_mod_cast this)

theorem IsRne.le_of_ge {t : ℚ} {q n : Nat} (h : IsRne t q) (ht : n ≤ t) : n ≤ q := by
  have := (abs_le.1 h.1).1
  have : (n : ℚ) < q + 1 := by linarith
  exact Nat.lt_succ_iff.1 (by exact_mod_cast this)

/-- The threshold of overflow: half way to an even integer rounds up to it. -/
theorem IsRne.even_le_iff {t : ℚ} {q n : Nat} (h : IsRne t q) (hn : n % 2 = 0) : n ≤ q ↔ (n : ℚ) - 1 / 2 ≤ t := by
  obtain ⟨hhalf, heven⟩ := h
  obtain ⟨hlo, hhi⟩ := abs_le.1 hhalf
  constructor
  · intro hle
    have : (n : ℚ) ≤ q := by exact_mod_cast hle
    linarith
  · intro ht
    by_contra hlt
    have hq : (q : ℚ) + 1 ≤ n := by exact_mod_cast not_le.1 hlt
    have heq : (q : ℚ) + 1 = n := by linarith
    have heq' : q + 1 = n := by exact_mod_cast heq
    have := heven (by rw [abs_sub_comm, abs_of_nonneg] <;> linarith)
    omega

theorem isRne_div_iff {t P : ℚ} (hP : 0 < P) (q : Nat) :
    IsRne (t / P) q ↔ |2 * (q * P - t)| ≤ P ∧ (|2 * (q * P - t)| = P → q % 2 = 0) := by
  have hscale : |2 * (q * P - t)| = |(q : ℚ) - t / P| * (2 * P) := by
    rw [show 2 * (q * P - t) = ((q : ℚ) - t / P) * (2 * P) by field_simp, abs_mul, abs_of_pos (by linarith : 0 < 2 * P)]
  have hle : |(q : ℚ) - t / P| * (2 * P) ≤ P ↔ |(q : ℚ) - t / P| ≤ 1 / 2 := by
    rw [← le_div_iff₀ (by linarith), show P / (2 * P) = 1 / 2 by field_simp]
  have heq : |(q : ℚ) - t / P| * (2 * P) = P ↔ |(q : ℚ) - t / P| = 1 / 2 := by
    rw [← eq_div_iff (by linarith), show P / (2 * P) = 1 / 2 by field_simp]
  rw [IsRne, hscale, hle, heq]

/-! ### shiftRne -/

theorem isRne_up {t P ρ : ℚ} {d : Nat} (hP : 0 < P) (ht : t = d * P + ρ) (hlo : P ≤ 2 * ρ) (hhi : ρ ≤ P)
    (htie : 2 * ρ = P → d % 2 = 1) : IsRne (t / P) (d + 1) := by
  rw [isRne_div_iff hP, show 2 * (((d + 1 : Nat) : ℚ) * P - t) = 2 * P - 2 * ρ by rw [ht]; push_cast; ring,
    abs_of_nonneg (by linarith)]
  refine ⟨by linarith, fun h => ?_⟩
  have := htie (by linarith)
  omega

theorem isRne_down {t P ρ : ℚ} {d : Nat} (hP : 0 < P) (ht : t = d * P + ρ) (hlo : 0 ≤ ρ) (hhi : 2 * ρ ≤ P)
    (htie : 2 * ρ = P → d % 2 = 0) : IsRne (t / P) d := by
  rw [isRne_div_iff hP, show 2 * ((d : ℚ) * P - t) = -(2 * ρ) by rw [ht]; ring, abs_neg, abs_of_nonneg (by linarith)]
  exact ⟨hhi, htie⟩

/-- m stands for t in a rounding that drops d bits: it is t, or it is the odd number next to t (a last bit that says that
something remains) and two bits at least are dropped. -/
def StandsFor (m : Nat) (t : ℚ) (d : ℤ) : Prop := t = m ∨ (m % 2 = 1 ∧ |t - m| < 1 ∧ 2 ≤ d)

theorem StandsFor.lt {m n : Nat} {t : ℚ} {d : ℤ} (h : StandsFor m t d) (hmn : m < n) : t < n := by
  have hmn' : (m : ℚ) + 1 ≤ n := by exact_mod_cast hmn
  rcases h with rfl | ⟨-, habs, -⟩
  · linarith
  · linarith [(abs_lt.1 habs).2]

theorem StandsFor.ge {m n : Nat} {t : ℚ} {d : ℤ} (h : StandsFor m t d) (hn : n % 2 = 0 ∨ d < 2) (hnm : n ≤ m) :
    (n : ℚ) ≤ t := by
  rcases h with rfl | ⟨hodd, habs, hd⟩
  · exact_mod_cast hnm
  · have hnm' : (n : ℚ) + 1 ≤ m := by exact_mod_cast (by omega : n + 1 ≤ m)
    linarith [(abs_lt.1 habs).1]

/-- Half the last place tells t as it tells m: what the last bit stands for decides no comparison. -/
theorem StandsFor.remainder {m k : Nat} {t : ℚ} (h : StandsFor m t k) : ∃ ρ : ℚ,
    t = (m / 2 ^ k : Nat) * 2 ^ k + ρ ∧ 0 ≤ ρ ∧ ρ ≤ 2 ^ k ∧ (2 ^ k < 2 * (m % 2 ^ k) → 2 ^ k < 2 * ρ) ∧
    (2 * (m % 2 ^ k) < 2 ^ k → 2 * ρ < 2 ^ k) ∧ (2 * (m % 2 ^ k) = 2 ^ k → 2 * ρ = 2 ^ k) := by
  have hdiv : ((m / 2 ^ k : Nat) : ℚ) * 2 ^ k + (m % 2 ^ k : Nat) = m := by exact_mod_cast Nat.div_add_mod' m (2 ^ k)
  have hr : m % 2 ^ k < 2 ^ k := Nat.mod_lt _ (by positivity)
  refine ⟨(m % 2 ^ k : Nat) + (t - m), by linarith, ?_⟩
  rcases h with rfl | ⟨hodd, habs, hk⟩
  · simp only [sub_self, add_zero]
    refine ⟨by positivity, by exact_mod_cast hr.le, ?_, ?_, ?_⟩ <;> intro h <;> exact_mod_cast h
  · obtain ⟨hlo, hhi⟩ := abs_lt.1 habs
    obtain ⟨c, hc⟩ : (4 : Nat) ∣ 2 ^ k := pow_dvd_pow 2 (by exact_mod_cast hk : 2 ≤ k)
    have hrodd : m % 2 ^ k % 2 = 1 := by
      rw [Nat.mod_mod_of_dvd _ (dvd_trans (by norm_num) (Dvd.intro _ hc.symm)), hodd]
    have h1 : (1 : ℚ) ≤ (m % 2 ^ k : Nat) := by exact_mod_cast (by omega : 1 ≤ m % 2 ^ k)
    have h2 : ((m % 2 ^ k : Nat) : ℚ) + 1 ≤ 2 ^ k := by exact_mod_cast hr
    refine ⟨by linarith, by linarith, fun h => ?_, fun h => ?_, fun h => by omega⟩
    · have : (2 ^ k : ℚ) + 2 ≤ 2 * (m % 2 ^ k : Nat) := by exact_mod_cast (by omega : 2 ^ k + 2 ≤ 2 * (m % 2 ^ k))
      linarith
    · have : (2 : ℚ) * (m % 2 ^ k : Nat) + 2 ≤ 2 ^ k := by exact_mod_cast (by omega : 2 * (m % 2 ^ k) + 2 ≤ 2 ^ k)
      linarith

theorem isRne_shiftRne {m k : Nat} {t : ℚ} (h : StandsFor m t k) : IsRne (t / 2 ^ k) (Fp.shiftRne m k) := by
  obtain ⟨ρ, ht, h0, h1, habove, hbelow, htie⟩ := h.remainder
  unfold Fp.shiftRne
  split
  · rename_i hup
    refine isRne_up (by positivity) ht ?_ h1 fun htie' => ?_
    · rcases hup with hgt | ⟨heq, -⟩
      · exact (habove hgt).le
      · exact (htie heq).ge
    · rcases hup with hgt | ⟨-, hodd⟩
      · exact absurd htie' (habove hgt).ne'
      · exact hodd
  · rename_i hup
    have hle : 2 * (m % 2 ^ k) < 2 ^ k ∨ 2 * (m % 2 ^ k) = 2 ^ k := by omega
    refine isRne_down (by positivity) ht h0 ?_ fun htie' => ?_
    · rcases hle with hlt | heq
      · exact (hbelow hlt).le
      · exact (htie heq).le
    · rcases hle with hlt | heq
      · exact absurd htie' (hbelow hlt).ne
      · omega

/-! ### Overflow and nearness -/

theorem overflow_iff {e q : Nat} {t : ℚ} (h : IsRne t q) (ht : t < 2 ^ 24) (he : (e = 0 ∧ 0 ≤ t) ∨ 2 ^ 23 ≤ t) :
    0x7F800000 ≤ e * 2 ^ 23 + q ↔ (2 ^ 25 - 1) * 2 ^ 103 ≤ t * ulp e := by
  have hq : q ≤ 2 ^ 24 := h.le_of_le (by exact_mod_cast ht.le)
  have hbound : ((2 ^ 25 - 1) * 2 ^ 103 : ℚ) = (2 ^ 24 - 1 / 2) * ulp 253 := by norm_num [ulp]
  rw [hbound]
  rcases lt_trichotomy e 253 with hlt | rfl | hgt
  · have hu : 2 * ulp e ≤ ulp 253 := two_ulp_le hlt
    have hsmall : t * ulp e ≤ 2 ^ 24 * ulp e := mul_le_mul_of_nonneg_right ht.le (ulp_pos e).le
    have := ulp_pos 253
    exact iff_of_false (by omega) (not_le.2 (by linarith))
  · rw [mul_le_mul_iff_left₀ (ulp_pos 253), show 0x7F800000 ≤ 253 * 2 ^ 23 + q ↔ 2 ^ 24 ≤ q by omega,
      h.even_le_iff (by norm_num)]
    norm_num
  · have ht' : 2 ^ 23 ≤ t := he.resolve_left (by omega)
    have hq' : 2 ^ 23 ≤ q := h.le_of_ge (by exact_mod_cast ht')
    have hu : 2 * ulp 253 ≤ ulp e := two_ulp_le hgt
    have hbig : 2 ^ 23 * ulp e ≤ t * ulp e := mul_le_mul_of_nonneg_right ht' (ulp_pos e).le
    have := ulp_pos 253
    exact iff_of_true (by omega) (by linarith)

/-- The q last places nearest t last places are nearest among all numbers, at a tie the even ones. -/
theorem IsRne.nearest_value {e q : Nat} {t : ℚ} (h : IsRne t q) (he : e = 0 ∨ 2 ^ 23 ≤ t) (z : F32) :
    |q * ulp e - t * ulp e| ≤ |value z - t * ulp e| ∧
    (|q * ulp e - t * ulp e| = |value z - t * ulp e| → value z ≠ q * ulp e → q % 2 = 0) := by
  have hu := ulp_pos e
  have scale (a : ℚ) : |a * ulp e - t * ulp e| = |a - t| * ulp e := by rw [← sub_mul, abs_mul, abs_of_pos hu]
  rcases value_multiple_or_below e z with ⟨j, hj⟩ | ⟨he0, hbelow⟩
  · rw [hj, scale, scale, mul_le_mul_iff_left₀ hu, mul_left_inj' hu.ne', Ne, mul_left_inj' hu.ne']
    exact h.nearest j
  · have ht : 2 ^ 23 ≤ t := he.resolve_left he0
    have hlt : |q * ulp e - t * ulp e| < |value z - t * ulp e| := by
      calc |q * ulp e - t * ulp e| ≤ |(2 ^ 23 : ℤ) - t| * ulp e := by
            rw [scale]
            exact mul_le_mul_of_nonneg_right (h.nearest (2 ^ 23)).1 hu.le
        _ = t * ulp e - 2 ^ 23 * ulp e := by
            push_cast
            rw [abs_of_nonpos (by linarith)]
            ring
        _ < t * ulp e - value z := by linarith
        _ ≤ |value z - t * ulp e| := by
            rw [abs_sub_comm]
            exact le_abs_self _
    exact ⟨hlt.le, fun heq => absurd heq hlt.ne⟩

/-- The pattern of the q last places nearest t last places is t last places rounded. -/
theorem roundsTo_pack {e q : Nat} {t : ℚ} (b : Bool) (h : IsRne t q) (ht : t < 2 ^ 24)
    (he : (e = 0 ∧ 0 ≤ t) ∨ 2 ^ 23 ≤ t) : RoundsTo (signed b (t * ulp e)) (Fp.pack b (e * 2 ^ 23 + q)) := by
  have ht0 : 0 ≤ t * ulp e := mul_nonneg (by rcases he with ⟨-, h0⟩ | h1 <;> linarith) (ulp_pos e).le
  have he' : e = 0 ∨ 2 ^ 23 ≤ t := he.imp_left And.left
  refine ⟨isNaN_pack _ _, fun hx => (isNeg_pack b _).trans (sign_eq ht0 hx), ?_, fun hfin z _ => ?_⟩
  · rw [isInf_pack, decide_eq_true_eq, abs_signed, abs_of_nonneg ht0]
    exact overflow_iff h ht he
  · rw [isInf_pack, decide_eq_false_iff_not, not_le] at hfin
    have hq : q ≤ 2 ^ 24 := h.le_of_le (by exact_mod_cast ht.le)
    have hq' : e = 0 ∨ 2 ^ 23 ≤ q := he'.imp_right fun h1 => h.le_of_ge (by exact_mod_cast h1)
    have hval : value (Fp.pack b (e * 2 ^ 23 + q)) = signed b (q * ulp e) := by
      rw [value_pack hfin.le, gridValue_add hq hq']
    have hpar : (Fp.pack b (e * 2 ^ 23 + q)).toNat % 2 = q % 2 := by
      rw [toNat_pack]
      split <;> omega
    obtain ⟨z', hz'⟩ : ∃ z', value z' = signed b (value z) := by
      cases b
      · exact ⟨z, rfl⟩
      · exact ⟨Fp.neg z, value_neg z⟩
    have hflip : |value z - signed b (t * ulp e)| = |value z' - t * ulp e| := by
      rw [← abs_signed b (value z - _), ← signed_sub, signed_signed, hz']
    obtain ⟨hle, htie⟩ := h.nearest_value he' z'
    rw [hval, hpar, signed_sub, abs_signed, hflip]
    exact ⟨hle, fun heq hne => htie heq fun hz => hne (by rw [← hz, hz', signed_signed])⟩

/-! ### round -/

theorem ulpExponent_spec (m : Nat) (e : ℤ) :
    -149 ≤ Fp.ulpExponent m e ∧ e + Nat.log2 m - 23 ≤ Fp.ulpExponent m e ∧
    (Fp.ulpExponent m e = -149 ∨ Fp.ulpExponent m e = e + Nat.log2 m - 23) := by
  unfold Fp.ulpExponent
  omega

theorem ulp_toNat {u : ℤ} (h : -149 ≤ u) : ulp (u + 149).toNat = 2 ^ u := by
  rw [ulp, Int.toNat_of_nonneg (by linarith), add_sub_cancel_right]

/-- The integer that `round` takes for m · 2^e in its last place is the nearest to t · 2^e in it. -/
theorem isRne_round {m : Nat} {e u : ℤ} {t : ℚ} (h : StandsFor m t (u - e)) :
    IsRne (t * 2 ^ (e - u)) (if u ≤ e then m * 2 ^ (e - u).toNat else Fp.shiftRne m (u - e).toNat) := by
  split
  · rename_i hue
    obtain rfl : t = m := h.resolve_right fun h => by omega
    have hpow : (2 : ℚ) ^ (e - u) = 2 ^ (e - u).toNat := by
      rw [← zpow_natCast, Int.toNat_of_nonneg (by linarith)]
    rw [hpow]
    exact_mod_cast isRne_self _
  · rename_i hue
    have hk : u - e = ((u - e).toNat : ℤ) := (Int.toNat_of_nonneg (by linarith)).symm
    rw [hk] at h
    have hpow : (2 : ℚ) ^ (e - u) = (2 ^ (u - e).toNat)⁻¹ := by
      rw [← zpow_natCast, ← hk, ← zpow_neg, neg_sub]
    rw [hpow, ← div_eq_mul_inv]
    exact isRne_shiftRne h

/-! The bounds on what stands for t, and on t scaled to the last place. -/

theorem StandsFor.lt_two_pow {m : Nat} {t : ℚ} {d : ℤ} (h : StandsFor m t d) : t < 2 ^ (m.log2 + 1) := by
  exact_mod_cast h.lt Nat.lt_log2_self

theorem StandsFor.two_pow_le {m : Nat} {t : ℚ} {d : ℤ} (h : StandsFor m t d) (hm : m ≠ 0) (hd : d ≤ m.log2) :
    (2 : ℚ) ^ m.log2 ≤ t := by
  refine mod_cast h.ge (n := 2 ^ m.log2) ?_ (Nat.log2_self_le hm)
  rcases Nat.lt_or_ge m.log2 1 with h0 | h1
  · exact .inr (by omega)
  · exact .inl (Nat.mod_eq_zero_of_dvd (dvd_pow_self 2 (by omega)))

theorem scaled_lt {t : ℚ} {L : Nat} {d : ℤ} (ht : t < 2 ^ (L + 1)) (hd : L + d ≤ 23) : t * 2 ^ d < 2 ^ 24 := by
  calc t * 2 ^ d < 2 ^ (L + 1) * 2 ^ d := mul_lt_mul_of_pos_right ht (zpow_pos (by norm_num) _)
    _ = 2 ^ ((L : ℤ) + 1 + d) := by
      rw [zpow_add₀ (by norm_num) ((L : ℤ) + 1)]
      norm_cast
    _ ≤ 2 ^ (24 : ℤ) := zpow_le_zpow_right₀ (by norm_num) (by linarith)
    _ = 2 ^ 24 := by norm_num

theorem le_scaled {t : ℚ} {L : Nat} {d : ℤ} (ht : 2 ^ L ≤ t) (hd : L + d = 23) : 2 ^ 23 ≤ t * 2 ^ d := by
  calc (2 : ℚ) ^ 23 = 2 ^ ((L : ℤ) + d) := by rw [hd]; norm_num
    _ = 2 ^ L * 2 ^ d := by rw [zpow_add₀ (by norm_num), zpow_natCast]
    _ ≤ t * 2 ^ d := mul_le_mul_of_nonneg_right ht (zpow_nonneg (by norm_num) _)

/-- `round` rounds the number that its integer stands for, exactly or by a last bit. -/
theorem roundsTo_round (b : Bool) {m : Nat} {e : ℤ} {t : ℚ} (hm : m ≠ 0)
    (h : StandsFor m t (Fp.ulpExponent m e - e)) : RoundsTo (signed b (t * 2 ^ e)) (Fp.round b m e) := by
  obtain ⟨hmin, hge, hcases⟩ := ulpExponent_spec m e
  have hrne := isRne_round h
  have hround : Fp.round b m e = Fp.pack b ((Fp.ulpExponent m e + 149).toNat * 2 ^ 23 +
      if Fp.ulpExponent m e ≤ e then m * 2 ^ (e - Fp.ulpExponent m e).toNat
      else Fp.shiftRne m (Fp.ulpExponent m e - e).toNat) := if_neg hm
  generalize Fp.ulpExponent m e = u at *
  have hscale : t * 2 ^ e = t * 2 ^ (e - u) * ulp (u + 149).toNat := by
    rw [ulp_toNat hmin, mul_assoc, ← zpow_add₀ (by norm_num), sub_add_cancel]
  rw [hround, hscale]
  refine roundsTo_pack b hrne (scaled_lt h.lt_two_pow (by linarith)) ?_
  rcases hcases with rfl | hu
  · have h0 : (0 : ℚ) ≤ t := by exact_mod_cast h.ge (.inl rfl) (Nat.zero_le m)
    exact .inl ⟨rfl, mul_nonneg h0 (zpow_nonneg (by norm_num) _)⟩
  · exact .inr (le_scaled (h.two_pow_le hm (by linarith)) (by linarith))

theorem roundsTo_zero (b : Bool) : RoundsTo 0 (Fp.pack b 0) := by
  have := roundsTo_pack b (e := 0) (q := 0) (t := 0) (by norm_num [IsRne]) (by norm_num) (.inl ⟨rfl, le_refl _⟩)
  simpa [signed] using this

/-- `round` of an integer times a power of two is that number rounded. -/
theorem roundsTo_round_exact (b : Bool) (m : Nat) (e : ℤ) : RoundsTo (signed b (m * 2 ^ e)) (Fp.round b m e) := by
  by_cases hm : m = 0
  · subst hm
    simpa [signed, Fp.round] using roundsTo_zero b
  · exact roundsTo_round b hm (.inl rfl)

@[simp] theorem isNeg_round (b : Bool) (m : Nat) (e : ℤ) : Fp.isNeg (Fp.round b m e) = b := by
  unfold Fp.round
  split <;> exact isNeg_pack _ _

theorem signed_natAbs (s : ℤ) : signed (decide (s < 0)) s.natAbs = s := by
  rw [Nat.cast_natAbs, Int.cast_abs]
  by_cases h : s < 0
  · rw [abs_of_neg (by exact_mod_cast h)]
    simp [signed, h]
  · rw [abs_of_nonneg (by exact_mod_cast not_lt.1 h)]
    simp [signed, h]

theorem signed_mul_right (b : Bool) (v w : ℚ) : signed b (v * w) = signed b v * w := by cases b <;> simp [signed]

/-- `round` of an integer with its sign, times a power of two. -/
theorem roundsTo_round_int (s e : ℤ) : RoundsTo (s * 2 ^ e) (Fp.round (decide (s < 0)) s.natAbs e) := by
  have := roundsTo_round_exact (decide (s < 0)) s.natAbs e
  rwa [signed_mul_right, signed_natAbs] at this

/-! ### The operators on finite numbers -/

theorem exactSum_eq (x y : F32) :
    (Fp.exactSum x y : ℚ) * 2 ^ (min (Fp.exponent x) (Fp.exponent y)) = value x + value y := by
  have scale (a e : ℤ) (h : e ≤ a) : (2 : ℚ) ^ (a - e).toNat * 2 ^ e = 2 ^ a := by
    rw [← zpow_natCast, ← zpow_add₀ (by norm_num), Int.toNat_of_nonneg (by linarith), sub_add_cancel]
  rw [Fp.exactSum]
  push_cast
  rw [add_mul, mul_assoc, mul_assoc, scale _ _ (min_le_left _ _), scale _ _ (min_le_right _ _), value, value]

theorem exactSum_eq_zero_iff (x y : F32) : Fp.exactSum x y = 0 ↔ value x + value y = 0 := by
  rw [← exactSum_eq, mul_eq_zero_iff_right (zpow_ne_zero _ (by norm_num)), Int.cast_eq_zero]

/-- What a sum of finite numbers is: the sum of two zeros or of opposite numbers, or the exact sum rounded. -/
theorem sum_of_finite (nan : F32) {x y : F32} (hx : finite x) (hy : finite y) :
    Fp.sum nan x y = if Fp.exactSum x y = 0 then Fp.pack (Fp.isNeg x && Fp.isNeg y) 0
      else Fp.round (decide (Fp.exactSum x y < 0)) (Fp.exactSum x y).natAbs (min (Fp.exponent x) (Fp.exponent y)) := by
  obtain ⟨hxn, hxi⟩ := hx
  obtain ⟨hyn, hyi⟩ := hy
  simp [Fp.sum, hxn, hxi, hyn, hyi]

theorem roundsTo_sum (nan : F32) {x y : F32} (hx : finite x) (hy : finite y) :
    RoundsTo (value x + value y) (Fp.sum nan x y) := by
  rw [sum_of_finite nan hx hy]
  split
  · rename_i h
    rw [(exactSum_eq_zero_iff x y).1 h]
    exact roundsTo_zero _
  · rw [← exactSum_eq]
    exact roundsTo_round_int _ _

theorem isNeg_sum_of_zero (nan : F32) {x y : F32} (hx : finite x) (hy : finite y) (h : value x + value y = 0) :
    Fp.isNeg (Fp.sum nan x y) = (Fp.isNeg x && Fp.isNeg y) := by
  rw [sum_of_finite nan hx hy, if_pos ((exactSum_eq_zero_iff x y).2 h), isNeg_pack]

theorem mul_of_finite {x y : F32} (hx : finite x) (hy : finite y) : Fp.mul x y =
    Fp.round (Fp.isNeg x != Fp.isNeg y) (Fp.significand x * Fp.significand y) (Fp.exponent x + Fp.exponent y) := by
  obtain ⟨hxn, hxi⟩ := hx
  obtain ⟨hyn, hyi⟩ := hy
  simp [Fp.mul, hxn, hxi, hyn, hyi]

theorem roundsTo_mul {x y : F32} (hx : finite x) (hy : finite y) : RoundsTo (value x * value y) (Fp.mul x y) := by
  have hval : value x * value y = signed (Fp.isNeg x != Fp.isNeg y)
      ((Fp.significand x * Fp.significand y : Nat) * 2 ^ (Fp.exponent x + Fp.exponent y)) := by
    rw [value_eq, value_eq, ← signed_mul, zpow_add₀ (by norm_num)]
    push_cast
    congr 1
    ring
  rw [mul_of_finite hx hy, hval]
  exact roundsTo_round_exact _ _ _

theorem div_of_finite {x y : F32} (hx : finite x) (hy : finite y) (hy0 : Fp.isZero y = false) : Fp.div x y =
    Fp.round (Fp.isNeg x != Fp.isNeg y) (Fp.quotient x y) (Fp.exponent x - Fp.exponent y - 51) := by
  obtain ⟨hxn, hxi⟩ := hx
  obtain ⟨hyn, hyi⟩ := hy
  simp [Fp.div, hxn, hxi, hyn, hyi, hy0]

/-- The quotient's last bit stands for what remains of the division. -/
theorem quotient_standsFor {n d : Nat} (hd : 0 < d) {k : ℤ} (hk : 2 ≤ k) :
    StandsFor (2 * (n / d) + (if n % d = 0 then 0 else 1)) (2 * (n / d : ℚ)) k := by
  have hd' : (0 : ℚ) < d := by exact_mod_cast hd
  have hn : (n : ℚ) = d * (n / d : Nat) + (n % d : Nat) := by exact_mod_cast (Nat.div_add_mod n d).symm
  have ht : 2 * (n / d : ℚ) = 2 * (n / d : Nat) + 2 * ((n % d : Nat) / d) := by
    rw [hn]
    field_simp
  split
  · rename_i h0
    left
    rw [ht, h0]
    push_cast
    ring
  · rename_i h0
    have hpos : (0 : ℚ) < (n % d : Nat) / d := div_pos (by exact_mod_cast Nat.pos_of_ne_zero h0) hd'
    have hlt : ((n % d : Nat) : ℚ) / d < 1 := (div_lt_one hd').2 (by exact_mod_cast Nat.mod_lt n hd)
    refine .inr ⟨by omega, ?_, hk⟩
    rw [ht, abs_lt]
    push_cast
    constructor <;> linarith

/-- A quotient of non-zero numbers has bits enough for its last one to be dropped. -/
theorem quotient_ge {x y : F32} (hx : Fp.significand x ≠ 0) (hy : 0 < Fp.significand y) : 2 ^ 27 ≤ Fp.quotient x y := by
  have hdiv : 2 ^ 26 ≤ Fp.significand x * 2 ^ 50 / Fp.significand y := by
    rw [Nat.le_div_iff_mul_le hy]
    have := significand_lt y
    omega
  simp only [Fp.quotient]
  omega

theorem roundsTo_div {x y : F32} (hx : finite x) (hy : finite y) (hy0 : value y ≠ 0) :
    RoundsTo (value x / value y) (Fp.div x y) := by
  have hy0' : Fp.isZero y = false := by rwa [Ne, value_eq_zero_iff, Bool.not_eq_true] at hy0
  have hsy : 0 < Fp.significand y := Nat.pos_of_ne_zero fun h => by simp [(significand_eq_zero_iff y).1 h] at hy0'
  rw [div_of_finite hx hy hy0']
  by_cases hsx : Fp.significand x = 0
  · have hq : Fp.quotient x y = 0 := by simp [Fp.quotient, hsx]
    rw [hq, (value_eq_zero_iff x).2 ((significand_eq_zero_iff x).1 hsx), zero_div]
    simpa [signed] using roundsTo_round_exact (Fp.isNeg x != Fp.isNeg y) 0 (Fp.exponent x - Fp.exponent y - 51)
  · have hbig := quotient_ge hsx hsy
    have hdrop : 2 ≤ Fp.ulpExponent (Fp.quotient x y) (Fp.exponent x - Fp.exponent y - 51) -
        (Fp.exponent x - Fp.exponent y - 51) := by
      have hlog : 27 ≤ (Fp.quotient x y).log2 := (Nat.le_log2 (by omega)).2 hbig
      obtain ⟨-, hge, -⟩ := ulpExponent_spec (Fp.quotient x y) (Fp.exponent x - Fp.exponent y - 51)
      omega
    have hval : value x / value y = signed (Fp.isNeg x != Fp.isNeg y)
        (2 * (((Fp.significand x * 2 ^ 50 : Nat) : ℚ) / Fp.significand y) * 2 ^ (Fp.exponent x - Fp.exponent y - 51)) := by
      rw [value_eq, value_eq, ← signed_div, zpow_sub₀ (by norm_num), zpow_sub₀ (by norm_num)]
      push_cast
      congr 1
      field_simp
      norm_num
    rw [hval]
    exact roundsTo_round _ (by omega) (quotient_standsFor hsy hdrop)

end Sys2Proof.Arith

open Sys2Proof Sys2Proof.Claims Sys2Proof.Arith

/-- Settles O39: each operator is `round` of an integer that stands for its exact result. -/
theorem arithmeticRoundsOnce : Obligations.ArithmeticRoundsOnce := by
  refine ⟨fun x y hx hy => ?_, fun n => ?_, rfl⟩
  · have hy' : finite (Fp.neg y) := (finite_neg y).2 hy
    have hsub : value x - value y = value x + value (Fp.neg y) := by rw [value_neg, sub_eq_add_neg]
    refine ⟨roundsTo_sum _ hx hy, hsub ▸ roundsTo_sum _ hx hy', roundsTo_mul hx hy, roundsTo_div hx hy,
      isNeg_sum_of_zero _ hx hy, fun h => ?_, ?_, fun h => ?_⟩
    · rw [Fp.sub, isNeg_sum_of_zero _ hx hy' (hsub ▸ h), isNeg_neg]
    · rw [mul_of_finite hx hy, isNeg_round]
    · rw [Ne, value_eq_zero_iff, Bool.not_eq_true] at h
      rw [div_of_finite hx hy h, isNeg_round]
  · simpa [Fp.ofInt] using roundsTo_round_int n 0

end

section
/-! Comparisons and clamps (00_scope R13, R14): they are the order of the `orderKey`s, which is the order of the values. -/

namespace Sys2Proof.Arith

open Sys2Proof Sys2Proof.Claims

/-! ### The order of numbers that are not NaNs -/

theorem orderKey_eq (x : F32) : Fp.orderKey x = if Fp.isNeg x then -(mag x : ℤ) else mag x := rfl

theorem lt_iff {x y : F32} :
    Fp.lt x y = true ↔ Fp.isNaN x = false ∧ Fp.isNaN y = false ∧ Fp.orderKey x < Fp.orderKey y := by
  simp [Fp.lt, and_assoc]

theorem le_iff {x y : F32} :
    Fp.le x y = true ↔ Fp.isNaN x = false ∧ Fp.isNaN y = false ∧ Fp.orderKey x ≤ Fp.orderKey y := by
  simp [Fp.le, and_assoc]

theorem lt_of_isNaN {x y : F32} (h : Fp.isNaN x = true ∨ Fp.isNaN y = true) : Fp.lt x y = false := by
  rcases h with h | h <;> simp [Fp.lt, h]

theorem le_of_isNaN {x y : F32} (h : Fp.isNaN x = true ∨ Fp.isNaN y = true) : Fp.le x y = false := by
  rcases h with h | h <;> simp [Fp.le, h]

theorem lt_eq_not_le {x y : F32} (hx : Fp.isNaN x = false) (hy : Fp.isNaN y = false) : Fp.lt x y = !Fp.le y x := by
  rw [Fp.lt, Fp.le, hx, hy, Bool.eq_iff_iff]
  simp

theorem le_refl_of_not_nan {x : F32} (h : Fp.isNaN x = false) : Fp.le x x = true := le_iff.2 ⟨h, h, le_refl _⟩

theorem lt_le_trans {x y z : F32} (h : Fp.lt x y = true) (h' : Fp.le y z = true) : Fp.lt x z = true := by
  obtain ⟨hx, -, hxy⟩ := lt_iff.1 h
  obtain ⟨-, hz, hyz⟩ := le_iff.1 h'
  exact lt_iff.2 ⟨hx, hz, by omega⟩

theorem not_lt_of_le {x y : F32} (h : Fp.le x y = true) : Fp.lt y x = false := by
  obtain ⟨hx, hy, -⟩ := le_iff.1 h
  rw [lt_eq_not_le hy hx, h]
  rfl

theorem orderKey_neg (x : F32) : Fp.orderKey (Fp.neg x) = -Fp.orderKey x := by
  rw [orderKey_eq, orderKey_eq, isNeg_neg, mag_neg]
  cases Fp.isNeg x <;> simp

/-- Unary minus reverses the order. -/
theorem le_neg_neg (x y : F32) : Fp.le (Fp.neg x) (Fp.neg y) = Fp.le y x := by
  rw [Bool.eq_iff_iff, le_iff, le_iff, orderKey_neg, orderKey_neg, isNaN_neg, isNaN_neg, neg_le_neg_iff]
  tauto

/-! ### The order of finite numbers is that of their values -/

theorem value_le_value_iff (x y : F32) : value x ≤ value y ↔ Fp.orderKey x ≤ Fp.orderKey y := by
  have hmono (j k : Nat) : gridValue j ≤ gridValue k ↔ j ≤ k := gridValue_strictMono.le_iff_le
  have hx0 := gridValue_nonneg (mag x)
  have hy0 := gridValue_nonneg (mag y)
  have hzero (k : Nat) : gridValue k ≤ 0 ↔ k ≤ 0 := by rw [← gridValue_zero, hmono]
  rw [value_eq_signed, value_eq_signed, orderKey_eq, orderKey_eq]
  cases Fp.isNeg x <;> cases Fp.isNeg y <;> simp only [signed, if_true, if_false, Bool.false_eq_true]
  case false.false => exact_mod_cast hmono _ _
  case true.true => rw [neg_le_neg_iff, neg_le_neg_iff, hmono, Nat.cast_le]
  case true.false => exact iff_of_true (by linarith) (by omega)
  case false.true =>
    constructor
    · intro h
      have := (hzero (mag x)).1 (by linarith)
      have := (hzero (mag y)).1 (by linarith)
      omega
    · intro h
      rw [(by omega : mag x = 0), (by omega : mag y = 0)]
      simp

theorem le_iff_value {x y : F32} (hx : finite x) (hy : finite y) : Fp.le x y = true ↔ value x ≤ value y := by
  rw [le_iff, value_le_value_iff]
  simp [hx.1, hy.1]

theorem lt_iff_value {x y : F32} (hx : finite x) (hy : finite y) : Fp.lt x y = true ↔ value x < value y := by
  rw [lt_iff, ← not_le (b := value x), value_le_value_iff, not_le]
  simp [hx.1, hy.1]

/-! ### The infinities are the two ends -/

theorem orderKey_of_isInf {y : F32} (h : Fp.isInf y = true) :
    Fp.orderKey y = if Fp.isNeg y then -0x7F800000 else 0x7F800000 := by
  rw [isInf_eq, decide_eq_true_eq] at h
  rw [orderKey_eq, h]
  rfl

theorem orderKey_bounds {x : F32} (h : Fp.isNaN x = false) :
    -0x7F800000 ≤ Fp.orderKey x ∧ Fp.orderKey x ≤ 0x7F800000 := by
  rw [isNaN_eq, decide_eq_false_iff_not] at h
  rw [orderKey_eq]
  split <;> omega

theorem orderKey_eq_iff_of_isInf {x y : F32} (hy : Fp.isInf y = true) : Fp.orderKey x = Fp.orderKey y ↔ x = y := by
  refine ⟨fun h => ?_, fun h => h ▸ rfl⟩
  rw [isInf_eq, decide_eq_true_eq] at hy
  rw [orderKey_eq, orderKey_eq, hy] at h
  cases hsx : Fp.isNeg x <;> cases hsy : Fp.isNeg y <;> simp only [hsx, hsy, if_true, if_false, Bool.false_eq_true] at h
  case false.false | true.true => exact eq_of_sign_mag (by rw [hsx, hsy]) (by omega)
  case false.true | true.false => omega

section Infinity

variable {x y : F32} (hx : Fp.isNaN x = false) (hy : Fp.isInf y = true)
include hx hy

theorem le_isInf_right : Fp.le x y = (!Fp.isNeg y || x == y) := by
  obtain ⟨hlo, hhi⟩ := orderKey_bounds hx
  have hkey := orderKey_of_isInf hy
  rw [Bool.eq_iff_iff, le_iff, Bool.or_eq_true, beq_iff_eq, ← orderKey_eq_iff_of_isInf hy, hkey]
  cases Fp.isNeg y <;> simp [hx, not_isNaN_of_isInf hy] <;> omega

theorem le_isInf_left : Fp.le y x = (Fp.isNeg y || x == y) := by
  obtain ⟨hlo, hhi⟩ := orderKey_bounds hx
  have hkey := orderKey_of_isInf hy
  rw [Bool.eq_iff_iff, le_iff, Bool.or_eq_true, beq_iff_eq, ← orderKey_eq_iff_of_isInf hy, hkey]
  cases Fp.isNeg y <;> simp [hx, not_isNaN_of_isInf hy] <;> omega

theorem compare_isInf :
    Fp.lt x y = (!Fp.isNeg y && x != y) ∧ Fp.le x y = (!Fp.isNeg y || x == y) ∧
    Fp.lt y x = (Fp.isNeg y && x != y) ∧ Fp.le y x = (Fp.isNeg y || x == y) := by
  have hyn := not_isNaN_of_isInf hy
  rw [lt_eq_not_le hx hyn, lt_eq_not_le hyn hx, le_isInf_right hx hy, le_isInf_left hx hy, Bool.not_or, Bool.not_or,
    Bool.not_not]
  exact ⟨rfl, rfl, rfl, rfl⟩

end Infinity

/-! ### max, min and clamp -/

theorem max_of_lt {x lo : F32} (h : Fp.lt x lo = true) : Fp.max x lo = lo := if_pos h

theorem max_of_not_lt {x lo : F32} (h : Fp.lt x lo = false) : Fp.max x lo = x := if_neg (by simp [h])

theorem min_of_lt {x hi : F32} (h : Fp.lt hi x = true) : Fp.min x hi = hi := if_pos h

theorem min_of_not_lt {x hi : F32} (h : Fp.lt hi x = false) : Fp.min x hi = x := if_neg (by simp [h])

theorem clamp_of_isNaN {x : F32} (lo hi : F32) (h : Fp.isNaN x = true) : Fp.clamp x lo hi = x := by
  rw [Fp.clamp, max_of_not_lt (lt_of_isNaN (.inl h)), min_of_not_lt (lt_of_isNaN (.inr h))]

/-- Where the bounds cross, the upper one wins. -/
theorem clamp_of_crossed {x lo hi : F32} (hx : Fp.isNaN x = false) (h : Fp.lt hi lo = true) : Fp.clamp x lo hi = hi := by
  rw [Fp.clamp]
  cases hlt : Fp.lt x lo
  · obtain ⟨-, hlo, -⟩ := lt_iff.1 h
    have hle : Fp.le lo x = true := by simpa [lt_eq_not_le hx hlo] using hlt
    rw [max_of_not_lt hlt, min_of_lt (lt_le_trans h hle)]
  · rw [max_of_lt hlt, min_of_lt h]

section Ordered

variable {x lo hi : F32} (h : Fp.le lo hi = true)
include h

theorem clamp_of_lt (hx : Fp.lt x lo = true) : Fp.clamp x lo hi = lo := by
  rw [Fp.clamp, max_of_lt hx, min_of_not_lt (not_lt_of_le h)]

theorem clamp_of_gt (hx : Fp.lt hi x = true) : Fp.clamp x lo hi = hi := by
  have hle : Fp.lt x lo = false := not_lt_of_le (le_iff.2 (by
    obtain ⟨hlo, -, h1⟩ := le_iff.1 h
    obtain ⟨-, hxn, h2⟩ := lt_iff.1 hx
    exact ⟨hlo, hxn, by omega⟩))
  rw [Fp.clamp, max_of_not_lt hle, min_of_lt hx]

omit h in
theorem clamp_of_mem (hlo : Fp.le lo x = true) (hhi : Fp.le x hi = true) : Fp.clamp x lo hi = x := by
  rw [Fp.clamp, max_of_not_lt (not_lt_of_le hlo), min_of_not_lt (not_lt_of_le hhi)]

/-- A number lies below the bounds, above them or between them. -/
theorem below_above_or_between (hx : Fp.isNaN x = false) :
    Fp.lt x lo = true ∨ Fp.lt hi x = true ∨ (Fp.le lo x = true ∧ Fp.le x hi = true) := by
  obtain ⟨hlo, hhi, -⟩ := le_iff.1 h
  rw [lt_eq_not_le hx hlo, lt_eq_not_le hhi hx]
  cases Fp.le lo x <;> cases Fp.le x hi <;> simp

theorem clamp_bounds (hx : Fp.isNaN x = false) :
    Fp.le lo (Fp.clamp x lo hi) = true ∧ Fp.le (Fp.clamp x lo hi) hi = true := by
  obtain ⟨hlo, hhi, -⟩ := le_iff.1 h
  rcases below_above_or_between h hx with hlt | hgt | ⟨h1, h2⟩
  · rw [clamp_of_lt h hlt]
    exact ⟨le_refl_of_not_nan hlo, h⟩
  · rw [clamp_of_gt h hgt]
    exact ⟨h, le_refl_of_not_nan hhi⟩
  · rw [clamp_of_mem h1 h2]
    exact ⟨h1, h2⟩

end Ordered

end Sys2Proof.Arith
end

section
/-! The ENGINE's, the reset input's and a waiting HOST's step, and the laws of the configuration functions (00_scope R16). -/

namespace Sys2Proof.Arith

open Sys2Proof Sys2Proof.Claims

/-! ### TANH32 -/

theorem tanh32_neg (fns : Config.Functions) (x : F32) : Fp.tanh32 fns (Fp.neg x) = Fp.neg (Fp.tanh32 fns x) := by
  unfold Fp.tanh32
  cases h : Fp.isNeg x <;> simp [h]

theorem tanhMagnitude_range (fns : Config.Functions) {x : F32} (hx : Fp.isNaN x = false) :
    Fp.le Fp.minusOne (Fp.tanhMagnitude fns x) = true ∧ Fp.le (Fp.tanhMagnitude fns x) Fp.one = true := by
  rw [Fp.tanhMagnitude_of_not_nan fns hx]
  exact Fp.within_range _ (by decide) (by decide)

theorem tanh32_range (fns : Config.Functions) {x : F32} (hx : Fp.isNaN x = false) :
    Fp.le Fp.minusOne (Fp.tanh32 fns x) = true ∧ Fp.le (Fp.tanh32 fns x) Fp.one = true := by
  unfold Fp.tanh32
  split
  · obtain ⟨hlo, hhi⟩ := tanhMagnitude_range fns ((isNaN_neg x).trans hx)
    have hone : Fp.minusOne = Fp.neg Fp.one := by decide
    rw [hone, le_neg_neg]
    exact ⟨hhi, by rwa [← neg_neg_self Fp.one, le_neg_neg, ← hone]⟩
  · exact tanhMagnitude_range fns hx

theorem atan2_range (fns : Config.Functions) {y x : F32} (hy : Fp.isNaN y = false) (hx : Fp.isNaN x = false) :
    Fp.le (Fp.neg Fp.pi32) (Fp.atan2 fns y x) = true ∧ Fp.le (Fp.atan2 fns y x) Fp.pi32 = true := by
  rw [Fp.atan2_of_not_nan fns hy hx]
  exact Fp.within_range _ (by decide) (by decide)

end Sys2Proof.Arith

namespace Sys2Proof.Machine

/-! ### Whose step it is -/

theorem step_of_sched {s : State} {a : Agent} {later : List Agent} (h : s.sched = a :: later) :
    step s = ({ s with sched := later } : State).agentStep a := by
  simp [step, h]

theorem step_of_waiting {s : State} (h : s.sched = []) (hw : decode s.port = .waiting) :
    step s = .next s.engineStep := by
  simp [step, h, State.defaultAgent, hw, State.agentStep]

theorem hostStep_of_waiting {s : State} (h : decode s.port = .waiting) : s.hostStep = .next s := by
  simp [State.hostStep, h]

end Sys2Proof.Machine

open Sys2Proof Sys2Proof.Machine Sys2Proof.Arith

/-- Settles O8: the head of the order of moves says whose step it is. -/
theorem stepOfTheOtherAgents : Obligations.StepOfTheOtherAgents := by
  refine fun s later => ⟨fun h => ?_, step_of_waiting, fun h => ?_, fun h hw => ?_⟩
  · rw [step_of_sched h]
    rfl
  · rw [step_of_sched h]
    rfl
  · rw [step_of_sched h]
    exact hostStep_of_waiting hw

/-- Settles O40: the laws that Machine/ConfigFns.lean puts on every choice of the functions. -/
theorem configurationLaws : Obligations.ConfigurationLaws := fun fns =>
  ⟨Fp.pow2_zero fns, Fp.exp32_zero fns, tanh32_neg fns, fun _ hx => tanh32_range fns hx,
    fun _ _ hy hx => atan2_range fns hy hx⟩

end

section
/-! Special operands (00_scope R12, R13, R16): the operators on NaNs, infinities and zeros, FLOOR and int, and the special
cases of the default configuration functions (log 8). -/

namespace Sys2Proof.Arith

open Sys2Proof Sys2Proof.Claims

/-! ### A NaN operand -/

theorem sum_of_isNaN {nan x y : F32} (h : Fp.isNaN x = true ∨ Fp.isNaN y = true) : Fp.sum nan x y = nan := by
  rcases h with h | h <;> simp [Fp.sum, h]

theorem mul_of_isNaN {x y : F32} (h : Fp.isNaN x = true ∨ Fp.isNaN y = true) : Fp.mul x y = Fp.nanOf .mul x y := by
  rcases h with h | h <;> simp [Fp.mul, h]

theorem div_of_isNaN {x y : F32} (h : Fp.isNaN x = true ∨ Fp.isNaN y = true) : Fp.div x y = Fp.nanOf .div x y := by
  rcases h with h | h <;> simp [Fp.div, h]

theorem nan_operand {x y : F32} (h : Fp.isNaN x = true ∨ Fp.isNaN y = true) :
    Fp.isNaN (Fp.add x y) = true ∧ Fp.isNaN (Fp.sub x y) = true ∧ Fp.isNaN (Fp.mul x y) = true ∧
    Fp.isNaN (Fp.div x y) = true ∧ Fp.lt x y = false ∧ Fp.le x y = false := by
  have hsub : Fp.isNaN x = true ∨ Fp.isNaN (Fp.neg y) = true := by rwa [isNaN_neg]
  rw [Fp.add, Fp.sub, sum_of_isNaN h, sum_of_isNaN hsub, mul_of_isNaN h, div_of_isNaN h]
  exact ⟨isNaN_nanOf _ _ _, isNaN_nanOf _ _ _, isNaN_nanOf _ _ _, isNaN_nanOf _ _ _, lt_of_isNaN h, le_of_isNaN h⟩

/-! ### Sums with an infinity -/

theorem sum_of_isInf_left {nan x y : F32} (hx : Fp.isInf x = true) (hy : Fp.isNaN y = false) :
    Fp.sum nan x y = if Fp.isInf y && Fp.isNeg x != Fp.isNeg y then nan else x := by
  simp [Fp.sum, not_isNaN_of_isInf hx, hx, hy]

theorem sum_of_isInf_right {nan x y : F32} (hx : finite x) (hy : Fp.isInf y = true) : Fp.sum nan x y = y := by
  simp [Fp.sum, hx.1, hx.2, hy, not_isNaN_of_isInf hy]

theorem add_of_isInf {x y : F32} (hx : Fp.isInf x = true) (hy : finite y) : Fp.add x y = x ∧ Fp.add y x = x := by
  rw [Fp.add, Fp.add, sum_of_isInf_left hx hy.1, sum_of_isInf_right hy hx, hy.2]
  exact ⟨rfl, rfl⟩

theorem sub_of_isInf {x y : F32} (hx : Fp.isInf x = true) (hy : finite y) :
    Fp.sub x y = x ∧ Fp.sub y x = Fp.neg x := by
  have hy' : finite (Fp.neg y) := (finite_neg y).2 hy
  rw [Fp.sub, Fp.sub, sum_of_isInf_left hx hy'.1, sum_of_isInf_right hy ((isInf_neg x).trans hx), hy'.2]
  exact ⟨rfl, rfl⟩

/-- Two infinities cancel exactly where their signs as terms differ. -/
theorem isNaN_sum_of_isInf {nan x y : F32} (hnan : Fp.isNaN nan = true) (hx : Fp.isInf x = true) (hy : Fp.isInf y = true) :
    Fp.isNaN (Fp.sum nan x y) = (Fp.isNeg x != Fp.isNeg y) := by
  rw [sum_of_isInf_left hx (not_isNaN_of_isInf hy), hy, Bool.true_and]
  split
  · rename_i h
    rw [hnan, h]
  · rename_i h
    rw [not_isNaN_of_isInf hx, Bool.eq_false_of_not_eq_true h]

theorem add_of_isInf_isInf {x y : F32} (hx : Fp.isInf x = true) (hy : Fp.isInf y = true) :
    Fp.isNaN (Fp.add x y) = (Fp.isNeg x != Fp.isNeg y) :=
  isNaN_sum_of_isInf (isNaN_nanOf _ _ _) hx hy

theorem sub_of_isInf_isInf {x y : F32} (hx : Fp.isInf x = true) (hy : Fp.isInf y = true) :
    Fp.isNaN (Fp.sub x y) = (Fp.isNeg x == Fp.isNeg y) ∧ (Fp.isNeg x ≠ Fp.isNeg y → Fp.sub x y = x) := by
  have hy' : Fp.isInf (Fp.neg y) = true := (isInf_neg y).trans hy
  rw [Fp.sub, isNaN_sum_of_isInf (isNaN_nanOf _ _ _) hx hy', sum_of_isInf_left hx (not_isNaN_of_isInf hy'), hy', isNeg_neg]
  cases Fp.isNeg x <;> cases Fp.isNeg y <;> simp

theorem add_self_of_isInf {x : F32} (hx : Fp.isInf x = true) : Fp.add x x = x := by
  rw [Fp.add, sum_of_isInf_left hx (not_isNaN_of_isInf hx), bne_self_eq_false, Bool.and_false]
  rfl

/-- The exact difference of a number and itself is 0, and its terms have opposite signs. -/
theorem sub_self_of_finite {x : F32} (hx : finite x) : Fp.sub x x = Fp.zero := by
  have h0 : Fp.exactSum x (Fp.neg x) = 0 := by rw [exactSum_eq_zero_iff, value_neg, add_neg_cancel]
  rw [Fp.sub, sum_of_finite _ hx ((finite_neg x).2 hx), if_pos h0, isNeg_neg, Bool.and_not_self]
  rfl

/-! ### Products and quotients with an infinity or a zero -/

theorem mul_of_isInf_left {x y : F32} (hx : Fp.isInf x = true) (hy : Fp.isNaN y = false) : Fp.mul x y =
    if Fp.isZero y then Fp.nanOf .mul x y else Fp.pack (Fp.isNeg x != Fp.isNeg y) 0x7F800000 := by
  simp [Fp.mul, not_isNaN_of_isInf hx, not_isZero_of_isInf hx, hx, hy]

theorem mul_of_isInf_right {x y : F32} (hx : Fp.isNaN x = false) (hy : Fp.isInf y = true) : Fp.mul x y =
    if Fp.isZero x then Fp.nanOf .mul x y else Fp.pack (Fp.isNeg x != Fp.isNeg y) 0x7F800000 := by
  simp [Fp.mul, not_isNaN_of_isInf hy, not_isZero_of_isInf hy, hx, hy]

theorem div_of_isInf_left {x y : F32} (hx : Fp.isInf x = true) (hy : Fp.isNaN y = false) : Fp.div x y =
    if Fp.isInf y then Fp.nanOf .div x y else Fp.pack (Fp.isNeg x != Fp.isNeg y) 0x7F800000 := by
  simp [Fp.div, not_isNaN_of_isInf hx, hx, hy]

theorem div_of_isInf_right {x y : F32} (hx : finite x) (hy : Fp.isInf y = true) :
    Fp.div x y = Fp.pack (Fp.isNeg x != Fp.isNeg y) 0 := by
  simp [Fp.div, not_isNaN_of_isInf hy, hx.1, hx.2, hy]

theorem div_of_isZero_right {x y : F32} (hx : finite x) (hy : Fp.isZero y = true) : Fp.div x y =
    if Fp.isZero x then Fp.nanOf .div x y else Fp.pack (Fp.isNeg x != Fp.isNeg y) 0x7F800000 := by
  obtain ⟨hyn, hyi⟩ := finite_of_isZero hy
  simp [Fp.div, hx.1, hx.2, hyn, hyi, hy]

theorem isInf_pack_top (b : Bool) : Fp.isInf (Fp.pack b 0x7F800000) = true := by rw [isInf_pack]; rfl

theorem isZero_pack_zero (b : Bool) : Fp.isZero (Fp.pack b 0) = true := by rw [isZero_eq, mag_pack]; rfl

theorem div_isInf_isInf {x y : F32} (hx : Fp.isInf x = true) (hy : Fp.isInf y = true) :
    Fp.isNaN (Fp.div x y) = true := by
  rw [div_of_isInf_left hx (not_isNaN_of_isInf hy), if_pos hy, isNaN_nanOf]

theorem div_isInf_finite {x y : F32} (hx : Fp.isInf x = true) (hy : finite y) :
    Fp.isInf (Fp.div x y) = true ∧ Fp.isNeg (Fp.div x y) = (Fp.isNeg x != Fp.isNeg y) ∧
    Fp.isZero (Fp.div y x) = true ∧ Fp.isNeg (Fp.div y x) = (Fp.isNeg x != Fp.isNeg y) := by
  rw [div_of_isInf_left hx hy.1, if_neg (by simp [hy.2]), div_of_isInf_right hy hx, isNeg_pack, isNeg_pack]
  exact ⟨isInf_pack_top _, rfl, isZero_pack_zero _, bne_comm⟩

theorem mul_isInf_not_isZero {x y : F32} (hx : Fp.isInf x = true) (hy : Fp.isNaN y = false) (hy0 : Fp.isZero y = false) :
    Fp.isInf (Fp.mul x y) = true ∧ Fp.isNeg (Fp.mul x y) = (Fp.isNeg x != Fp.isNeg y) ∧ Fp.mul y x = Fp.mul x y := by
  rw [mul_of_isInf_left hx hy, mul_of_isInf_right hy hx, if_neg (by simp [hy0]), if_neg (by simp [hy0]), isNeg_pack,
    bne_comm (a := Fp.isNeg y)]
  exact ⟨isInf_pack_top _, rfl, rfl⟩

theorem mul_isInf_isZero {x y : F32} (hx : Fp.isInf x = true) (hy : Fp.isZero y = true) :
    Fp.isNaN (Fp.mul x y) = true ∧ Fp.isNaN (Fp.mul y x) = true := by
  have hyn := (finite_of_isZero hy).1
  rw [mul_of_isInf_left hx hyn, mul_of_isInf_right hyn hx, if_pos hy, if_pos hy]
  exact ⟨isNaN_nanOf _ _ _, isNaN_nanOf _ _ _⟩

theorem div_isZero_isZero {x y : F32} (hx : Fp.isZero x = true) (hy : Fp.isZero y = true) :
    Fp.isNaN (Fp.div x y) = true := by
  rw [div_of_isZero_right (finite_of_isZero hx) hy, if_pos hx, isNaN_nanOf]

theorem div_not_isZero_isZero {x y : F32} (hx : Fp.isNaN x = false) (hx0 : Fp.isZero x = false)
    (hy : Fp.isZero y = true) :
    Fp.isInf (Fp.div x y) = true ∧ Fp.isNeg (Fp.div x y) = (Fp.isNeg x != Fp.isNeg y) := by
  have hdiv : Fp.div x y = Fp.pack (Fp.isNeg x != Fp.isNeg y) 0x7F800000 := by
    obtain ⟨hyn, hyi⟩ := finite_of_isZero hy
    cases hxi : Fp.isInf x
    · rw [div_of_isZero_right ⟨hx, hxi⟩ hy, if_neg (by simp [hx0])]
    · rw [div_of_isInf_left hxi hyn, if_neg (by simp [hyi])]
  rw [hdiv, isNeg_pack]
  exact ⟨isInf_pack_top _, rfl⟩

/-! ### A representable result is exact -/

theorem gridValue_lt_overflow {k : Nat} (h : k < 0x7F800000) : gridValue k < (2 ^ 25 - 1) * 2 ^ 103 := by
  have htop : gridValue (253 * 2 ^ 23 + (2 ^ 24 - 1)) = (2 ^ 24 - 1 : Nat) * ulp 253 :=
    gridValue_add (by norm_num) (.inr (by norm_num))
  calc gridValue k ≤ gridValue (253 * 2 ^ 23 + (2 ^ 24 - 1)) := gridValue_strictMono.monotone (by omega)
    _ < (2 ^ 25 - 1) * 2 ^ 103 := by rw [htop]; norm_num [ulp]

/-- What rounds a number that a finite pattern stands for is finite and stands for it too. -/
theorem value_of_roundsTo_value {r z : F32} (h : RoundsTo (value z) r) (hz : finite z) :
    finite r ∧ value r = value z := by
  obtain ⟨hnan, -, hinf, hnear⟩ := h
  have hfin : Fp.isInf r = false := by
    rw [← Bool.not_eq_true, hinf, not_le, value_eq_signed, abs_signed, abs_of_nonneg (gridValue_nonneg _)]
    exact gridValue_lt_overflow ((finite_iff z).1 hz)
  have hle := (hnear hfin z hz).1
  rw [sub_self, abs_zero, abs_nonpos_iff, sub_eq_zero] at hle
  exact ⟨⟨hnan, hfin⟩, hle⟩

/-- Every integer of 24 bits is representable. -/
theorem exists_value_eq_int {n : ℤ} (h : n.natAbs < 2 ^ 24) : ∃ z : F32, finite z ∧ value z = n := by
  by_cases h0 : n.natAbs = 0
  · refine ⟨Fp.zero, by unfold finite; decide, ?_⟩
    rw [(value_eq_zero_iff _).2 (by decide), Int.natAbs_eq_zero.1 h0, Int.cast_zero]
  · have hlog : n.natAbs.log2 ≤ 23 := Nat.lt_succ_iff.1 ((Nat.log2_lt h0).2 h)
    have hpow : 2 ^ n.natAbs.log2 * 2 ^ (23 - n.natAbs.log2) = 2 ^ 23 := by rw [← pow_add, Nat.add_sub_cancel' hlog]
    have hlow : 2 ^ 23 ≤ n.natAbs * 2 ^ (23 - n.natAbs.log2) :=
      hpow ▸ Nat.mul_le_mul_right _ (Nat.log2_self_le h0)
    have hhigh : n.natAbs * 2 ^ (23 - n.natAbs.log2) < 2 ^ 24 := by
      have := Nat.mul_lt_mul_of_pos_right (Nat.lt_log2_self (n := n.natAbs)) (Nat.two_pow_pos (23 - n.natAbs.log2))
      rwa [pow_succ, mul_right_comm, hpow] at this
    have hulp : ((2 : ℚ) ^ (23 - n.natAbs.log2)) * ulp (126 + n.natAbs.log2) = 1 := by
      rw [← ulp_add, show 126 + n.natAbs.log2 + (23 - n.natAbs.log2) = 149 by omega]
      norm_num [ulp]
    have hk : (126 + n.natAbs.log2) * 2 ^ 23 + n.natAbs * 2 ^ (23 - n.natAbs.log2) < 0x7F800000 := by omega
    refine ⟨Fp.pack (decide (n < 0)) _, (finite_iff _).2 (by rw [mag_pack]; exact min_lt_of_left_lt hk), ?_⟩
    rw [value_pack hk.le, gridValue_add hhigh.le (.inr hlow), Nat.cast_mul, Nat.cast_pow, Nat.cast_ofNat, mul_assoc, hulp,
      mul_one, signed_natAbs]

/-- `round` of an integer of 24 bits is exact. -/
theorem value_round_int {n : ℤ} (h : n.natAbs < 2 ^ 24) :
    finite (Fp.round (decide (n < 0)) n.natAbs 0) ∧ value (Fp.round (decide (n < 0)) n.natAbs 0) = n := by
  obtain ⟨z, hz, hval⟩ := exists_value_eq_int h
  have := roundsTo_round_int n 0
  rw [zpow_zero, mul_one, ← hval] at this
  rw [← hval]
  exact value_of_roundsTo_value this hz

/-! ### FLOOR and int -/

theorem value_of_exponent_nonneg {x : F32} (h : 0 ≤ Fp.exponent x) :
    value x = (Fp.signedSignificand x * 2 ^ (Fp.exponent x).toNat : ℤ) := by
  have hpow : (2 : ℚ) ^ Fp.exponent x = 2 ^ (Fp.exponent x).toNat := by
    rw [← zpow_natCast, Int.toNat_of_nonneg h]
  rw [value, hpow]
  push_cast
  rfl

theorem value_of_exponent_neg {x : F32} (h : ¬0 ≤ Fp.exponent x) :
    value x = (Fp.signedSignificand x : ℚ) / (2 ^ (-Fp.exponent x).toNat : Nat) := by
  have hpow : (2 : ℚ) ^ Fp.exponent x = (2 ^ (-Fp.exponent x).toNat)⁻¹ := by
    rw [← zpow_natCast, Int.toNat_of_nonneg (by omega), ← zpow_neg, neg_neg]
  rw [value, hpow, div_eq_mul_inv]
  push_cast
  rfl

theorem floorInt_eq (x : F32) : Fp.floorInt x = ⌊value x⌋ := by
  unfold Fp.floorInt
  split
  · rename_i h
    rw [value_of_exponent_nonneg h, Int.floor_intCast]
  · rename_i h
    rw [value_of_exponent_neg h, Rat.floor_intCast_div_natCast]
    push_cast
    rfl

theorem natAbs_floorInt_lt {x : F32} (h : ¬0 ≤ Fp.exponent x) : (Fp.floorInt x).natAbs < 2 ^ 24 := by
  have hs : (Fp.signedSignificand x).natAbs < 2 ^ 24 := by
    have := significand_lt x
    unfold Fp.signedSignificand
    split <;> omega
  rw [Fp.floorInt, if_neg h]
  exact lt_of_le_of_lt (Int.natAbs_ediv_le_natAbs _ _) hs

/-- FLOOR of a finite number: its floor, exactly, with its sign. -/
theorem floor_of_finite {x : F32} (hx : finite x) :
    finite (Fp.floor x) ∧ value (Fp.floor x) = (⌊value x⌋ : ℤ) ∧ Fp.isNeg (Fp.floor x) = Fp.isNeg x := by
  have hunfold : Fp.floor x = if 0 ≤ Fp.exponent x then x
      else if Fp.floorInt x = 0 then Fp.pack (Fp.isNeg x) 0
      else Fp.round (decide (Fp.floorInt x < 0)) (Fp.floorInt x).natAbs 0 := by
    simp [Fp.floor, hx.1, hx.2]
  rw [hunfold, ← floorInt_eq]
  split
  · rename_i h
    refine ⟨hx, ?_, rfl⟩
    rw [floorInt_eq, value_of_exponent_nonneg h, Int.floor_intCast]
  · rename_i h
    split
    · rename_i h0
      refine ⟨finite_of_isZero (isZero_pack_zero _), ?_, isNeg_pack _ _⟩
      rw [h0, (value_eq_zero_iff _).2 (isZero_pack_zero _), Int.cast_zero]
    · rename_i h0
      obtain ⟨hfin, hval⟩ := value_round_int (natAbs_floorInt_lt h)
      refine ⟨hfin, hval, ?_⟩
      have hne : value x ≠ 0 := fun h => h0 (by rw [floorInt_eq, h, Int.floor_zero])
      have hsign := sign_eq (b := Fp.isNeg x) (gridValue_nonneg (mag x)) (by rwa [← value_eq_signed])
      rw [isNeg_round, hsign, ← value_eq_signed, decide_eq_decide, floorInt_eq, Int.floor_lt, Int.cast_zero]

theorem floor_of_isNaN {x : F32} (h : Fp.isNaN x = true) : Fp.isNaN (Fp.floor x) = true := by
  simp [Fp.floor, h]

theorem floor_of_isInf {x : F32} (h : Fp.isInf x = true) : Fp.floor x = x := by
  simp [Fp.floor, h, not_isNaN_of_isInf h]

theorem isIntegral_of_value_int {x : F32} {n : ℤ} (h : value x = n) : Fp.isIntegral x = true := by
  rw [Fp.isIntegral, beq_iff_eq]
  by_cases he : 0 ≤ Fp.exponent x
  · rw [show (-Fp.exponent x).toNat = 0 by omega, pow_zero, Nat.mod_one]
  · have hs : Fp.signedSignificand x = n * (2 ^ (-Fp.exponent x).toNat : Nat) := by
      rw [value_of_exponent_neg he, div_eq_iff (by positivity)] at h
      exact_mod_cast h
    have habs : Fp.significand x = (Fp.signedSignificand x).natAbs := by
      unfold Fp.signedSignificand
      split <;> simp
    rw [habs, hs, Int.natAbs_mul, Int.natAbs_natCast, Nat.mul_mod_left]

theorem toInt_of_value_int {x : F32} (hx : finite x) {n : ℤ} (h : value x = n) : Fp.toInt x = n := by
  have hfloor : Fp.toInt x = Fp.floorInt x := by simp [Fp.toInt, hx.1, hx.2, isIntegral_of_value_int h]
  rw [hfloor, floorInt_eq, h, Int.floor_intCast]

/-! ### The default configuration functions at special arguments (log 8) -/

theorem zero_cases {x : F32} (h : Fp.isZero x = true) : x = 0x00000000#32 ∨ x = 0x80000000#32 := by
  rw [eq_pack_of_isZero h]
  cases Fp.isNeg x
  · exact .inl rfl
  · exact .inr rfl

theorem posInf_of_isInf {x : F32} (h : Fp.isInf x = true) (hs : Fp.isNeg x = false) : x = 0x7F800000#32 := by
  rw [eq_pack_of_isInf h, hs]
  rfl

theorem negInf_of_isInf {x : F32} (h : Fp.isInf x = true) (hs : Fp.isNeg x = true) : x = 0xFF800000#32 := by
  rw [eq_pack_of_isInf h, hs]
  rfl

theorem ne_zero_of_isNaN {x : F32} (h : Fp.isNaN x = true) : x ≠ Fp.zero := by
  rintro rfl
  exact absurd h (by decide)

theorem trig_of_isNaN_or_isInf {x : F32} (h : Fp.isNaN x = true ∨ Fp.isInf x = true) :
    Fp.isNaN (Elementary.tan x) = true ∧ Fp.isNaN (Elementary.sin x) = true ∧ Fp.isNaN (Elementary.cos x) = true := by
  rcases h with h | h <;> simp [Elementary.tan, Elementary.sin, Elementary.cos, h]

theorem power_of_isNaN (op : Config.FpOp) (lnBase high low : Nat) {x : F32} (h : Fp.isNaN x = true) :
    Fp.isNaN (Elementary.power op lnBase high low x) = true := by
  simp [Elementary.power, h]

theorem tanhMagnitude_of_isNaN {x : F32} (h : Fp.isNaN x = true) :
    Fp.isNaN (Fp.tanhMagnitude .correctlyRounded x) = true := by
  simp [Fp.tanhMagnitude, h, Elementary.tanh]

theorem tanh32_of_isNaN {x : F32} (h : Fp.isNaN x = true) : Fp.isNaN (Fp.tanh32 .correctlyRounded x) = true := by
  unfold Fp.tanh32
  split
  · rw [isNaN_neg, tanhMagnitude_of_isNaN ((isNaN_neg x).trans h)]
  · exact tanhMagnitude_of_isNaN h

theorem powers_of_isNaN {x : F32} (h : Fp.isNaN x = true) :
    Fp.isNaN (Fp.exp32 .correctlyRounded x) = true ∧ Fp.isNaN (Fp.pow2 .correctlyRounded x) = true ∧
    Fp.isNaN (Fp.pow10 .correctlyRounded x) = true := by
  rw [Fp.exp32, Fp.pow2, if_neg (ne_zero_of_isNaN h), if_neg (ne_zero_of_isNaN h)]
  exact ⟨power_of_isNaN _ _ _ _ h, power_of_isNaN _ _ _ _ h, power_of_isNaN _ _ _ _ h⟩

theorem atan2_of_isNaN {x y : F32} (h : Fp.isNaN x = true ∨ Fp.isNaN y = true) :
    Fp.isNaN (Fp.atan2 .correctlyRounded y x) = true := by
  rcases h with h | h <;> simp [Fp.atan2, Elementary.atan2, h]

theorem functions_of_isZero {x : F32} (h : Fp.isZero x = true) :
    let c := Config.Functions.correctlyRounded
    Fp.tan32 c x = x ∧ Fp.sin32 c x = x ∧ Fp.cos32 c x = Fp.one ∧ Fp.exp32 c x = Fp.one ∧
    Fp.pow2 c x = Fp.one ∧ Fp.pow10 c x = Fp.one ∧ Fp.tanh32 c x = x := by
  rcases zero_cases h with rfl | rfl <;> decide

theorem functions_of_posInf {x : F32} (h : Fp.isInf x = true) (hs : Fp.isNeg x = false) :
    let c := Config.Functions.correctlyRounded
    Fp.exp32 c x = x ∧ Fp.pow2 c x = x ∧ Fp.pow10 c x = x ∧ Fp.tanh32 c x = Fp.one := by
  rw [posInf_of_isInf h hs]
  decide

theorem functions_of_negInf {x : F32} (h : Fp.isInf x = true) (hs : Fp.isNeg x = true) :
    let c := Config.Functions.correctlyRounded
    Fp.exp32 c x = Fp.zero ∧ Fp.pow2 c x = Fp.zero ∧ Fp.pow10 c x = Fp.zero ∧ Fp.tanh32 c x = Fp.minusOne := by
  rw [negInf_of_isInf h hs]
  decide

/-! ### ATAN2_32 of a zero or an infinity -/

theorem pack_eq_neg (b : Bool) (k : Nat) : Fp.pack b k = if b then Fp.neg (Fp.pack false k) else Fp.pack false k := by
  cases b
  · rfl
  · exact eq_of_sign_mag (by simp) (by simp)

theorem pack_zero (b : Bool) : Fp.pack b 0 = if b then Fp.neg Fp.zero else Fp.zero := pack_eq_neg b 0

theorem round_eq_neg (b : Bool) (m : Nat) (e : ℤ) :
    Fp.round b m e = if b then Fp.neg (Fp.round false m e) else Fp.round false m e := by
  unfold Fp.round
  split <;> exact pack_eq_neg _ _

theorem rounded_eq_neg (b : Bool) (N : Nat) (e : ℤ) :
    Elementary.rounded b N e = if b then Fp.neg (Elementary.rounded false N e) else Elementary.rounded false N e :=
  round_eq_neg _ _ _

theorem rounded_pi (b : Bool) : Elementary.rounded b Elementary.pi 0 = if b then Fp.neg Fp.pi32 else Fp.pi32 := by
  rw [rounded_eq_neg, (by decide +kernel : Elementary.rounded false Elementary.pi 0 = Fp.pi32)]

theorem rounded_half_pi (b : Bool) :
    Elementary.rounded b (Elementary.pi / 2) 0 = if b then Fp.neg 0x3FC90FDB#32 else 0x3FC90FDB#32 := by
  rw [rounded_eq_neg, (by decide +kernel : Elementary.rounded false (Elementary.pi / 2) 0 = 0x3FC90FDB#32)]

theorem rounded_quarter_pi (b : Bool) :
    Elementary.rounded b (Elementary.pi / 4) 0 = if b then Fp.neg 0x3F490FDB#32 else 0x3F490FDB#32 := by
  rw [rounded_eq_neg, (by decide +kernel : Elementary.rounded false (Elementary.pi / 4) 0 = 0x3F490FDB#32)]

theorem rounded_three_quarters_pi (b : Bool) :
    Elementary.rounded b (3 * Elementary.pi / 4) 0 = if b then Fp.neg 0x4016CBE4#32 else 0x4016CBE4#32 := by
  rw [rounded_eq_neg, (by decide +kernel : Elementary.rounded false (3 * Elementary.pi / 4) 0 = 0x4016CBE4#32)]

/-- The size of atan2(y, x) where y or x is a zero or an infinity: the angle of the half axis or diagonal on which (x, |y|)
lies. -/
def axisAngle (y x : F32) : F32 :=
  if Fp.isInf y then (if Fp.isInf x then (if Fp.isNeg x then 0x4016CBE4#32 else 0x3F490FDB#32) else 0x3FC90FDB#32)
  else if Fp.isZero y || Fp.isInf x then (if Fp.isNeg x then Fp.pi32 else Fp.zero)
  else 0x3FC90FDB#32

theorem axisAngle_abs (y x : F32) : axisAngle (Fp.abs y) x = axisAngle y x := by simp [axisAngle]

theorem axisAngle_mem (y x : F32) :
    axisAngle y x ∈ [0x4016CBE4#32, 0x3F490FDB#32, 0x3FC90FDB#32, Fp.pi32, Fp.zero] := by
  unfold axisAngle
  split_ifs <;> decide

/-- The angles of the axes and diagonals, with either sign, obey the law of ATAN2_32. -/
theorem within_axisAngle (b : Bool) (y x : F32) :
    Fp.within (Fp.neg Fp.pi32) Fp.pi32 (if b then Fp.neg (axisAngle y x) else axisAngle y x) =
      if b then Fp.neg (axisAngle y x) else axisAngle y x := by
  have hmem := axisAngle_mem y x
  generalize axisAngle y x = a at hmem ⊢
  simp only [List.mem_cons, List.not_mem_nil, or_false] at hmem
  rcases hmem with rfl | rfl | rfl | rfl | rfl <;> cases b <;> decide

theorem elementary_atan2_of_special {y x : F32} (hy : Fp.isNaN y = false) (hx : Fp.isNaN x = false)
    (h : Fp.isZero y = true ∨ Fp.isZero x = true ∨ Fp.isInf y = true ∨ Fp.isInf x = true) :
    Elementary.atan2 y x = if Fp.isNeg y then Fp.neg (axisAngle y x) else axisAngle y x := by
  simp only [Elementary.atan2, axisAngle, hy, hx, Bool.or_self, Bool.false_eq_true, if_false]
  cases hyi : Fp.isInf y
  · cases hz : Fp.isZero y || Fp.isInf x
    · have hx0 : Fp.isZero x = true := by
        obtain ⟨hy0, hxi⟩ := Bool.or_eq_false_iff.1 hz
        simpa [hy0, hyi, hxi] using h
      simpa only [hx0, Bool.false_eq_true, if_true, if_false] using rounded_half_pi _
    · cases Fp.isNeg x
      · simpa only [Bool.false_eq_true, if_true, if_false] using pack_zero _
      · simpa only [Bool.false_eq_true, if_true, if_false] using rounded_pi _
  · cases Fp.isInf x
    · simpa only [Bool.false_eq_true, if_true, if_false] using rounded_half_pi _
    · cases Fp.isNeg x
      · simpa only [Bool.false_eq_true, if_true, if_false] using rounded_quarter_pi _
      · simpa only [Bool.false_eq_true, if_true, if_false] using rounded_three_quarters_pi _

theorem atan2_of_special {y x : F32} (hy : Fp.isNaN y = false) (hx : Fp.isNaN x = false)
    (h : Fp.isZero y = true ∨ Fp.isZero x = true ∨ Fp.isInf y = true ∨ Fp.isInf x = true) :
    Fp.atan2 .correctlyRounded y x = if Fp.isNeg y then Fp.neg (axisAngle y x) else axisAngle y x := by
  rw [Fp.atan2_of_not_nan _ hy hx, Fp.atan2Raw_default, elementary_atan2_of_special hy hx h, within_axisAngle]

section Atan2

variable {y x : F32} (hy : Fp.isNaN y = false) (hx : Fp.isNaN x = false)
include hy hx

theorem atan2_abs_of_special (h : Fp.isZero y = true ∨ Fp.isZero x = true ∨ Fp.isInf y = true ∨ Fp.isInf x = true) :
    Fp.atan2 .correctlyRounded (Fp.abs y) x = axisAngle y x := by
  rw [atan2_of_special ((isNaN_abs y).trans hy) hx (by rwa [isZero_abs, isInf_abs]), isNeg_abs, axisAngle_abs]
  rfl

theorem atan2_special_values :
    (Fp.isZero y = true ∨ Fp.isZero x = true ∨ Fp.isInf y = true ∨ Fp.isInf x = true →
      Fp.atan2 .correctlyRounded y x = if Fp.isNeg y then Fp.neg (Fp.atan2 .correctlyRounded (Fp.abs y) x)
        else Fp.atan2 .correctlyRounded (Fp.abs y) x) ∧
    (Fp.isZero y = true ∨ (finite y ∧ Fp.isInf x = true) →
      Fp.atan2 .correctlyRounded (Fp.abs y) x = if Fp.isNeg x then Fp.pi32 else Fp.zero) ∧
    (finite y → Fp.isZero y = false → Fp.isZero x = true →
      Fp.atan2 .correctlyRounded (Fp.abs y) x = 0x3FC90FDB#32) ∧
    (Fp.isInf y = true → Fp.atan2 .correctlyRounded (Fp.abs y) x =
      if Fp.isInf x then (if Fp.isNeg x then 0x4016CBE4#32 else 0x3F490FDB#32) else 0x3FC90FDB#32) := by
  refine ⟨fun h => ?_, fun h => ?_, fun hyf hy0 hx0 => ?_, fun hyi => ?_⟩
  · rw [atan2_of_special hy hx h, atan2_abs_of_special hy hx h]
  · have hyi : Fp.isInf y = false := by
      rcases h with hy0 | ⟨hyf, -⟩
      · exact (finite_of_isZero hy0).2
      · exact hyf.2
    have haxis : (Fp.isZero y || Fp.isInf x) = true := by
      rcases h with hy0 | ⟨-, hxi⟩
      · rw [hy0, Bool.true_or]
      · rw [hxi, Bool.or_true]
    rw [atan2_abs_of_special hy hx (by tauto), axisAngle, hyi, haxis]
    rfl
  · have hxi := (finite_of_isZero hx0).2
    rw [atan2_abs_of_special hy hx (.inr (.inl hx0)), axisAngle, hyf.2, hy0, hxi]
    rfl
  · rw [atan2_abs_of_special hy hx (.inr (.inr (.inl hyi))), axisAngle, if_pos hyi]

end Atan2

end Sys2Proof.Arith

open Sys2Proof Sys2Proof.Claims Sys2Proof.Arith

/-- Settles O41: one lemma for each class of operands, and the special arguments of each default function. -/
theorem specialOperands : Obligations.SpecialOperands := by
  refine ⟨fun x y => ⟨nan_operand, fun hx => ?_, fun hx hy => ?_, fun hx hy => ?_, mul_isInf_not_isZero,
    mul_isInf_isZero, div_isZero_isZero, div_not_isZero_isZero, sub_self_of_finite, mag_neg x, isNeg_neg x, toNat_abs x,
    floor_of_isNaN, floor_of_isInf, floor_of_finite, fun hx _ => toInt_of_value_int hx,
    fun hx hy => ⟨lt_iff_value hx hy, le_iff_value hx hy⟩, compare_isInf, trig_of_isNaN_or_isInf, fun hx => ?_,
    atan2_of_isNaN, functions_of_isZero, atan2_special_values, functions_of_posInf, functions_of_negInf⟩,
    fun x lo hi => ?_, fun _ _ _ => Machine.DelayPool.clampInt_eq⟩
  · obtain ⟨hnan, -⟩ := sub_of_isInf_isInf hx hx
    exact ⟨hnan.trans (beq_self_eq_true _), div_isInf_isInf hx hx, add_self_of_isInf hx⟩
  · obtain ⟨hnan, hsub⟩ := sub_of_isInf_isInf hx hy
    exact ⟨add_of_isInf_isInf hx hy, hnan, hsub, div_isInf_isInf hx hy⟩
  · obtain ⟨hadd, hadd'⟩ := add_of_isInf hx hy
    obtain ⟨hsub, hsub'⟩ := sub_of_isInf hx hy
    exact ⟨hadd, hadd', hsub, hsub', div_isInf_finite hx hy⟩
  · obtain ⟨hexp, hpow2, hpow10⟩ := powers_of_isNaN hx
    exact ⟨hexp, hpow2, hpow10, tanh32_of_isNaN hx⟩
  · refine ⟨max_of_lt, max_of_not_lt, min_of_lt, min_of_not_lt, fun h => ?_, clamp_of_crossed, fun hx h => ?_⟩
    · exact ⟨max_of_not_lt (lt_of_isNaN (.inl h)), min_of_not_lt (lt_of_isNaN (.inr h)), clamp_of_isNaN lo hi h⟩
    · obtain ⟨hlo, hhi⟩ := clamp_bounds h hx
      exact ⟨hlo, hhi, clamp_of_lt h, clamp_of_gt h, clamp_of_mem⟩

end

section
/-! What an ENGINE step can do to the state, said once: as `exec_cases` for the HOST's commands, `engineStep_cases` spares a
proof about every step from unfolding the ENGINE (46_polysynth R740–R743, R710–R713). -/

namespace Sys2Proof.Machine

/-! ### What no step loses of a voice -/

/-- At most 4 dispersion stages, and the counter and the split point within the burst, are kept from V to W. -/
structure Voice.BoundsKept (V W : Voice) : Prop where
  stages : V.disp.m ≤ 4 → W.disp.m ≤ 4
  burst : V.BurstOk → W.BurstOk

theorem Voice.BoundsKept.refl (V : Voice) : V.BoundsKept V := ⟨id, id⟩

theorem Voice.BoundsKept.trans {V W X : Voice} (h : V.BoundsKept W) (g : W.BoundsKept X) : V.BoundsKept X :=
  ⟨g.stages ∘ h.stages, g.burst ∘ h.burst⟩

theorem Voice.Keeps.boundsKept {V W : Voice} (h : V.Keeps W) : V.BoundsKept W := ⟨h.stages.trans_le, h.burst⟩

theorem FiltersOnly.boundsKept {V W : Voice} (h : FiltersOnly V W) : V.BoundsKept W :=
  ⟨h.stages, fun hb => by rw [h.same]; exact hb⟩

theorem Bank.SameButLines.boundsKept {a b : Bank} (h : Bank.SameButLines a b) (v : Fin 8) : a[v].BoundsKept b[v] := by
  rw [h v]
  exact ⟨id, id⟩

theorem voiceNoteOff_boundsKept (V : Voice) : V.BoundsKept (voiceNoteOff V) := ⟨id, id⟩

/-- Every voice of every family keeps its bounds. -/
def VoicesKept (a b : PerFamily Bank) : Prop := ∀ (f : Family) (v : Fin 8), (a.get f)[v].BoundsKept (b.get f)[v]

theorem VoicesKept.refl (a : PerFamily Bank) : VoicesKept a a := fun _ _ => .refl _

theorem VoicesKept.trans {a b c : PerFamily Bank} (h : VoicesKept a b) (g : VoicesKept b c) : VoicesKept a c :=
  fun f v => (h f v).trans (g f v)

theorem VoicesKept.set {a b : PerFamily Bank} (h : VoicesKept a b) {f : Family} {B : Bank}
    (hB : ∀ v : Fin 8, (a.get f)[v].BoundsKept B[v]) : VoicesKept a (b.set f B) := by
  intro g v
  by_cases hg : g = f
  · subst hg
    rw [PerFamily.get_set_same]
    exact hB v
  · rw [PerFamily.get_set_other _ _ hg]
    exact h g v

theorem voicesKept_setVoice {s : State} {f : Family} {v : Fin 8} {W : Voice} (h : (s.voice f v).BoundsKept W) :
    VoicesKept s.voices (s.setVoice f v W).voices := by
  intro g u
  change (s.voice g u).BoundsKept ((s.setVoice f v W).voice g u)
  by_cases hgu : g = f ∧ u = v
  · obtain ⟨rfl, rfl⟩ := hgu
    rwa [State.voice_setVoice_same]
  · rw [State.voice_setVoice_other _ _ hgu]
    exact .refl _

theorem voicesKept_mapVoices {s : State} {f : Family} {g : Voice → Voice} (h : ∀ V : Voice, V.BoundsKept (g V)) :
    VoicesKept s.voices (s.mapVoices f g).voices :=
  (VoicesKept.refl _).set fun v => by
    rw [Fin.getElem_fin, Fin.getElem_fin, Vector.getElem_ofFn]
    exact h _

/-! ### Work on the voices of a family -/

/-- What notes and rendering do: voices, their managers and the lines change, and nothing else. -/
structure VoiceWork (s t : State) : Prop where
  frame : t = { s with voices := t.voices, pools := t.pools, delay := t.delay }
  kept : VoicesKept s.voices t.voices

theorem VoiceWork.refl (s : State) : VoiceWork s s := ⟨rfl, .refl _⟩

theorem VoiceWork.trans {s t u : State} (h : VoiceWork s t) (g : VoiceWork t u) : VoiceWork s u where
  frame := g.frame.trans (by rw [h.frame])
  kept := h.kept.trans g.kept

/-- A fold of voice work is voice work. -/
theorem voiceWork_foldl {α : Type} {op : State → α → State} (h : ∀ s a, VoiceWork s (op s a)) (l : List α) (s : State) :
    VoiceWork s (l.foldl op s) :=
  List.foldlRecOn l op (motive := VoiceWork s) (.refl s) fun t ht a _ => ht.trans (h t a)

theorem setPool_voiceWork (s : State) (f : Family) (P : PolySynth) : VoiceWork s (s.setPool f P) := ⟨rfl, .refl _⟩

theorem startVoice_voiceWork (s : State) (f : Family) (v : Fin 8) (ch : Fin 16) (note vel : Fin 128) :
    VoiceWork s (s.startVoice f v ch note vel) :=
  ⟨rfl, voicesKept_setVoice (voiceNoteOn_keeps s.voiceEnv f ch note vel (s.voice f v) s.delay).1.boundsKept⟩

theorem psNoteOn_voiceWork (s : State) (f : Family) (ch : Fin 16) (note vel : Fin 128) :
    VoiceWork s (s.psNoteOn f ch note vel) := by
  unfold State.psNoteOn
  dsimp only
  split
  · exact (setPool_voiceWork s f _).trans (startVoice_voiceWork _ f _ ch note vel)
  · exact (setPool_voiceWork s f _).trans (startVoice_voiceWork _ f _ ch note vel)

theorem psNoteOff_voiceWork (s : State) (f : Family) (note : Fin 128) : VoiceWork s (s.psNoteOff f note) := by
  refine voiceWork_foldl (fun t v => ?_) _ s
  unfold State.psNoteOffOne
  split
  · exact ⟨rfl, voicesKept_setVoice (voiceNoteOff_boundsKept _)⟩
  · exact .refl t

theorem psForceStopAll_voiceWork (s : State) (f : Family) : VoiceWork s (s.psForceStopAll f) :=
  ⟨rfl, voicesKept_mapVoices (s := s.setPool f emptyPool) voiceNoteOff_boundsKept⟩

theorem applyNote_voiceWork (Q : Vector NoteReq 128) (s : State) (note : Fin 128) :
    VoiceWork s (s.applyNote Q note) := by
  unfold State.applyNote
  split
  · exact psNoteOn_voiceWork s _ _ note _
  · exact psNoteOff_voiceWork s _ note
  · exact .refl s

theorem renderVoice_voiceWork (f : Family) (R : Rendering) (v : Fin 8) :
    VoiceWork R.state (renderVoice f R v).state :=
  ⟨rfl, voicesKept_setVoice (voiceBlock_keeps R.state.voiceEnv f (R.state.voice f v) R.state.delay).1.boundsKept⟩

theorem renderVoices_voiceWork (s : State) (f : Family) : VoiceWork s (s.renderVoices f).state :=
  List.foldlRecOn _ (renderVoice f) (motive := fun R => VoiceWork s R.state) (.refl s)
    fun R hR v _ => hR.trans (renderVoice_voiceWork f R v)

/-! ### The requests of a block -/

/-- What APPLY's requests do: voice work, and the request registers, the allocator and ACTIVE change. -/
structure RequestWork (s t : State) : Prop where
  frame : t = { s with
    req := t.req, instrReq := t.instrReq, fsaReq := t.fsaReq, active := t.active, allocFail := t.allocFail,
    delay := t.delay, alloc := t.alloc, voices := t.voices, pools := t.pools }
  kept : VoicesKept s.voices t.voices

theorem RequestWork.trans {s t u : State} (h : RequestWork s t) (g : RequestWork t u) : RequestWork s u where
  frame := g.frame.trans (by rw [h.frame])
  kept := h.kept.trans g.kept

theorem VoiceWork.requestWork {s t : State} (h : VoiceWork s t) : RequestWork s t where
  frame := h.frame.trans (by rw [h.frame])
  kept := h.kept

section
variable {s t : State} (h : RequestWork s t)
include h

theorem RequestWork.cfg : t.cfg = s.cfg := by rw [h.frame]
theorem RequestWork.raw : t.raw = s.raw := by rw [h.frame]
theorem RequestWork.live : t.live = s.live := by rw [h.frame]
theorem RequestWork.mode : t.mode = s.mode := by rw [h.frame]

end

theorem switchTo_requestWork (s : State) (r : Family) : RequestWork s (s.switchTo r) := by
  by_cases hr : r = s.active
  · rw [hr, switchTo_active]
    exact (VoiceWork.refl s).requestWork
  · have hstop := (psForceStopAll_voiceWork s s.active).kept s.active
    have hrelease := (release_sameButLines s.active
      ⟨s.alloc, (s.psForceStopAll s.active).voices.get s.active, s.allocFail⟩).boundsKept
    have hcheckout := (checkout_sameButLines r
      ⟨(switchRelease s).alloc, s.voices.get r, (switchRelease s).allocFail⟩).boundsKept
    rw [switchTo_other hr]
    exact ⟨rfl, ((VoicesKept.refl _).set fun v => (hstop v).trans (hrelease v)).set hcheckout⟩

theorem applyInstrument_requestWork (s : State) : RequestWork s s.applyInstrument := by
  unfold State.applyInstrument
  split
  · have htake : RequestWork s { s with instrReq := { s.instrReq with valid := false } } := ⟨rfl, .refl _⟩
    exact htake.trans (switchTo_requestWork _ _)
  · exact (VoiceWork.refl s).requestWork

theorem applyForceStop_requestWork (s : State) : RequestWork s s.applyForceStop := by
  unfold State.applyForceStop
  split
  · have htake : RequestWork s { s with fsaReq := false } := ⟨rfl, .refl _⟩
    exact htake.trans (psForceStopAll_voiceWork _ _).requestWork
  · exact (VoiceWork.refl s).requestWork

/-- APPLY is the work of its requests, and goes on to RENDER. -/
theorem applyStep_work (s : State) : ∃ t, RequestWork s t ∧ s.applyStep = { t with phase := .render } := by
  have hswitch := (applyInstrument_requestWork s).trans (applyForceStop_requestWork _)
  have htake : RequestWork s { s.applyInstrument.applyForceStop with req := Vector.replicate 128 .none } :=
    hswitch.trans ⟨rfl, .refl _⟩
  exact ⟨_, htake.trans (voiceWork_foldl (applyNote_voiceWork _) allSlots _).requestWork, rfl⟩

/-! ### Callbacks -/

@[simp] theorem dispFromLive_m (t : List Config.ParamRow) (live : List LiveVal) (f : Family) (D : Dispersion) :
    (dispFromLive t live f D).m = (liveByClass t live (.disp .stages) f).asStages := by simp [dispFromLive]

/-- A callback's effect on its family: filters and envelope coefficients. -/
structure CallbackWork (s t : State) : Prop where
  frame : t = { s with voices := t.voices, envReed := t.envReed, envBow := t.envBow }
  kept : VoicesKept s.voices t.voices

theorem callbackEffect_work (s : State) (row : Config.ParamRow) (lv : LiveVal) :
    CallbackWork s (s.callbackEffect row lv) := by
  unfold State.callbackEffect
  split
  · exact ⟨rfl, .refl _⟩
  · exact ⟨rfl, voicesKept_mapVoices fun _ => ⟨id, id⟩⟩
  · exact ⟨rfl, voicesKept_mapVoices fun _ => ⟨id, id⟩⟩
  · exact ⟨rfl, voicesKept_mapVoices fun _ => ⟨fun _ => by rw [dispFromLive_m]; exact asStages_le _, id⟩⟩
  · cases row.fam <;> exact ⟨rfl, .refl _⟩

theorem runCallback_unassigned {s : State} {slot : Fin 128} (h : s.cfg.val.table[slot.val]? = none) :
    s.runCallback slot = s := by simp only [State.runCallback, h]

/-- The callback of an assigned slot writes LIVE from RAW and has its class's effect. -/
theorem runCallback_work {s : State} {slot : Fin 128} {row : Config.ParamRow}
    (h : s.cfg.val.table[slot.val]? = some row) :
    CallbackWork { s with live := s.live.set slot (liveOf row (s.rawAt slot)) } (s.runCallback slot) := by
  simp only [State.runCallback, h]
  exact callbackEffect_work _ row _

/-- The phase after a callback is not the callback's own: it is a later slot's, or APPLY. -/
theorem nextPhase_ne_callback (snap : Vector Word 4) (slot : Fin 128) :
    nextPhase snap (slot.val + 1) ≠ .callback slot := by
  unfold nextPhase
  split
  · rename_i t ht
    have hlt := List.find?_some ht
    intro h
    injection h with h
    simp [h] at hlt
  · exact nofun

/-! ### The ENGINE's step -/

/-- Everything that an ENGINE step can do. -/
inductive EngineEffect (s : State) : State → Prop
  /-- The block tick starts a block. -/
  | start (hp : s.phase = .idle) (hm : s.mode = .run) (hr : s.stopReq = false) :
      EngineEffect s { s with phase := .swap 0 }
  /-- The block tick in STOP mode, or with a stop pending, which it takes: a block of zeros. -/
  | silent (hp : s.phase = .idle) (hm : s.mode = .stop ∨ s.stopReq = true) :
      EngineEffect s (State.emit { s with mode := .stop, stopReq := false }
        ⟨silence s.cfg.val.block, silence s.cfg.val.block⟩)
  /-- A word of DIRTY moves to SNAP. -/
  | swap (g : Fin 4) (hp : s.phase = .swap g) : EngineEffect s (s.swapWord g)
  /-- A callback of a slot that is not assigned: its SNAP bit is cleared. -/
  | unassigned (slot : Fin 128) (hp : s.phase = .callback slot) (hrow : s.cfg.val.table[slot.val]? = none) :
      EngineEffect s { s with
        snap := clearSlotBit s.snap slot, phase := nextPhase (clearSlotBit s.snap slot) (slot.val + 1) }
  /-- A callback of an assigned slot: LIVE follows RAW, and the filters and envelopes of its family follow LIVE. -/
  | callback (slot : Fin 128) (row : Config.ParamRow) (voices : PerFamily Bank) (envReed envBow : EnvCoefs)
      (hp : s.phase = .callback slot) (hrow : s.cfg.val.table[slot.val]? = some row)
      (hv : VoicesKept s.voices voices) :
      EngineEffect s { s with
        snap := clearSlotBit s.snap slot, live := s.live.set slot (liveOf row (s.rawAt slot)), voices := voices,
        envReed := envReed, envBow := envBow, phase := nextPhase (clearSlotBit s.snap slot) (slot.val + 1) }
  /-- The requests are taken (46_polysynth R742). -/
  | apply (t : State) (hp : s.phase = .apply) (hw : RequestWork s t) : EngineEffect s { t with phase := .render }
  /-- A block is emitted (46_polysynth R743). -/
  | render (t : State) (b : OutBlock) (hp : s.phase = .render) (hw : VoiceWork s t) :
      EngineEffect s { t.emit b with phase := .idle }

theorem begin_effect {s : State} (hp : s.phase = .idle) : EngineEffect s s.begin := by
  cases hr : s.stopReq with
  | true =>
    have e : s.begin = State.emit { s with mode := .stop, stopReq := false }
        ⟨silence s.cfg.val.block, silence s.cfg.val.block⟩ := by
      simp only [State.begin, hr, if_true]
    rw [e]
    exact .silent hp (.inr hr)
  | false =>
    cases hm : s.mode with
    | run =>
      have e : s.begin = { s with phase := .swap 0 } := by simp [State.begin, hr, hm]
      rw [e]
      exact .start hp hm hr
    | stop =>
      have e : s.begin = s.emit ⟨silence s.cfg.val.block, silence s.cfg.val.block⟩ := by simp [State.begin, hr, hm]
      have hsame : s = { s with mode := .stop, stopReq := false } := by rw [← hm, ← hr]
      rw [e.trans (congrArg (State.emit · _) hsame)]
      exact .silent hp (.inl hm)

theorem callbackStep_effect {s : State} {slot : Fin 128} (hp : s.phase = .callback slot) :
    EngineEffect s (s.callbackStep slot) := by
  cases hrow : s.cfg.val.table[slot.val]? with
  | none =>
    rw [State.callbackStep, runCallback_unassigned (s := { s with snap := clearSlotBit s.snap slot }) hrow]
    exact .unassigned slot hp hrow
  | some row =>
    have hw := runCallback_work (s := { s with snap := clearSlotBit s.snap slot }) hrow
    rw [State.callbackStep, hw.frame]
    exact .callback slot row _ _ _ hp hrow hw.kept

/-- The step of each phase has an effect of that phase. -/
theorem engineStep_cases (s : State) : EngineEffect s s.engineStep := by
  unfold State.engineStep
  split
  case h_1 hp => exact begin_effect hp
  case h_2 g hp => exact .swap g hp
  case h_3 slot hp => exact callbackStep_effect hp
  case h_4 hp =>
    obtain ⟨t, hw, e⟩ := applyStep_work s
    rw [e]
    exact .apply t hp hw
  case h_5 hp =>
    exact .render _ _ hp ((renderVoices_voiceWork s s.active).trans (setPool_voiceWork _ _ _))

end Sys2Proof.Machine
end

section
/-! The invariants of the parameters and of the excitation (10_state R110, R112, R134, R137), from what each agent's step can
do to RAW, LIVE and the voices. -/

namespace Sys2Proof.Machine

/-! ### The HOST's step -/

/-- What no command changes, and that no command enters STOP mode (10_state R112, R115, R116, R143). -/
structure HostKeeps (s t : State) : Prop where
  cfg : t.cfg = s.cfg
  active : t.active = s.active
  live : t.live = s.live
  mode : t.mode = .stop → s.mode = .stop
  kept : VoicesKept s.voices t.voices

theorem HostKeeps.refl (s : State) : HostKeeps s s := ⟨rfl, rfl, rfl, id, .refl _⟩

theorem CommandEffect.hostKeeps {s t : State} (h : CommandEffect s t) : HostKeeps s t := by
  cases h with
  | control _ _ _ _ mode _ _ hm =>
    refine ⟨rfl, rfl, rfl, fun hstop => ?_, .refl _⟩
    rcases hm with hm | hm
    · exact hm.symm.trans hstop
    · exact absurd (hm.symm.trans hstop) nofun
  | voice f v W hW _ => exact ⟨rfl, rfl, rfl, id, voicesKept_setVoice hW.boundsKept⟩
  | param | read | push | setDelay | clear | get | release => exact ⟨rfl, rfl, rfl, id, .refl _⟩

theorem CommandOutcome.hostKeeps {s t : State} (h : CommandOutcome s t) : HostKeeps s t := by
  obtain ⟨c, -, rfl⟩ | ⟨u, r, hu, rfl⟩ := h
  · exact ⟨rfl, rfl, rfl, id, .refl _⟩
  · obtain ⟨hcfg, hactive, hlive, hmode, hkept⟩ := hu.hostKeeps
    exact ⟨hcfg, hactive, hlive, hmode, hkept⟩

theorem hostStep_keeps {s t : State} (h : s.hostStep = .next t) : HostKeeps s t := by
  obtain rfl | ⟨rest, ho⟩ := hostStep_cases h
  · exact .refl _
  · obtain ⟨hcfg, hactive, hlive, hmode, hkept⟩ := ho.hostKeeps
    exact ⟨hcfg, hactive, hlive, hmode, hkept⟩

/-! ### The ENGINE's step -/

theorem EngineEffect.cfg {s t : State} (h : EngineEffect s t) : t.cfg = s.cfg := by
  cases h with
  | start | silent | swap | unassigned | callback => rfl
  | apply _ _ hw => exact hw.cfg
  | render _ _ _ hw => exact hw.requestWork.cfg

theorem EngineEffect.raw {s t : State} (h : EngineEffect s t) : t.raw = s.raw := by
  cases h with
  | start | silent | swap | unassigned | callback => rfl
  | apply _ _ hw => exact hw.raw
  | render _ _ _ hw => exact hw.requestWork.raw

theorem EngineEffect.kept {s t : State} (h : EngineEffect s t) : VoicesKept s.voices t.voices := by
  cases h with
  | start | silent | swap | unassigned => exact .refl _
  | callback _ _ _ _ _ _ _ hv => exact hv
  | apply t _ hw => exact hw.kept
  | render t _ _ hw => exact hw.kept

/-! ### The reset -/

theorem resetVoice_bounds (p : Config.Params) (f : Family) :
    (resetVoice p f).disp.m ≤ 4 ∧ (resetVoice p f).BurstOk :=
  ⟨(dispFromLive_m _ _ _ _).trans_le (asStages_le _), le_refl 0, le_refl 0⟩

/-- Of the reset's voices the String ones have their lines besides. -/
theorem resetOf_voice_boundsKept (cfg : Cfg) (f : Family) (v : Fin 8) :
    (resetVoice cfg.val f).BoundsKept ((State.resetOf cfg).voice f v) := by
  have hreplicate : ∀ V : Voice, (Vector.replicate 8 V)[v] = V := fun V => by simp
  cases f with
  | string =>
    have hlines := (checkout_sameButLines .string
      ⟨resetAllocator cfg.val, Vector.replicate 8 (resetVoice cfg.val .string), false⟩).boundsKept v
    rwa [hreplicate] at hlines
  | reed | bow =>
    exact Eq.subst (motive := Voice.BoundsKept _) (hreplicate _).symm (.refl _)

theorem resetOf_bounds (cfg : Cfg) (f : Family) (v : Fin 8) :
    ((State.resetOf cfg).voice f v).disp.m ≤ 4 ∧ ((State.resetOf cfg).voice f v).BurstOk := by
  obtain ⟨hstages, hburst⟩ := resetVoice_bounds cfg.val f
  have hkept := resetOf_voice_boundsKept cfg f v
  exact ⟨hkept.stages hstages, hkept.burst hburst⟩

/-- No step of any agent breaks a voice's bounds. -/
theorem step_voicesKept {s t : State} (h : step s = .next t) : VoicesKept s.voices t.voices := by
  obtain ⟨sched, hhost | rfl | rfl⟩ := step_cases h
  · exact (hostStep_keeps hhost).kept
  · exact (engineStep_cases { s with sched := sched }).kept
  · exact fun f v => ⟨fun _ => (resetOf_bounds s.cfg f v).1, fun _ => (resetOf_bounds s.cfg f v).2⟩

/-! ### RAW -/

/-- A row of an accepted table has its default in its range, and the range in i32 (47_params R831). -/
theorem row_bounds (cfg : Cfg) {row : Config.ParamRow} (h : row ∈ cfg.val.table) :
    -2147483648 ≤ row.minVal ∧ row.minVal ≤ row.defaultVal ∧ row.defaultVal ≤ row.maxVal ∧ row.maxVal ≤ 2147483647 := by
  have hvalid : cfg.val.valid = true := cfg.property
  have hrows : cfg.val.table.all Config.rowOk = true := by
    simp only [Config.Params.valid, Config.tableOk, Bool.and_eq_true] at hvalid
    tauto
  have hrow := List.all_eq_true.1 hrows row h
  simp only [Config.rowOk, Config.isI32, Bool.and_eq_true, decide_eq_true_eq] at hrow
  tauto

/-- The word of a value between the bounds of a row is that value as an i32. -/
theorem toInt_ofInt_of_row (cfg : Cfg) {row : Config.ParamRow} (h : row ∈ cfg.val.table) {x : Int} (hlo : row.minVal ≤ x)
    (hhi : x ≤ row.maxVal) : (BitVec.ofInt 32 x).toInt = x := by
  obtain ⟨hmin, -, -, hmax⟩ := row_bounds cfg h
  exact BitVec.toInt_ofInt_eq_self (by decide) (by norm_num; omega) (by norm_num; omega)

theorem rawInRange_congr {s t : State} (hc : t.cfg = s.cfg) (hr : t.raw = s.raw) (h : RawInRange s) : RawInRange t := by
  unfold RawInRange State.rawAt at h ⊢
  rwa [hc, hr]

theorem rawInRange_mutate {s : State} (h : RawInRange s) {slot : Fin 128} {row : Config.ParamRow} (new : Int)
    (dirty : Vector Word 4) (hrow : s.cfg.val.table[slot.val]? = some row) :
    RawInRange { s with
      raw := s.raw.set slot (BitVec.ofInt 32 (Fp.clampInt new row.minVal row.maxVal)), dirty := dirty } := by
  obtain ⟨hlen, hraw⟩ := h
  refine ⟨(List.length_set ..).trans hlen, fun i r hr => ?_⟩
  by_cases hi : i = slot.val
  · subst hi
    obtain rfl : row = r := Option.some.inj (hrow.symm.trans hr)
    have hmem := List.mem_of_getElem? hrow
    obtain ⟨-, hmin, hmax, -⟩ := row_bounds s.cfg hmem
    obtain ⟨hlo, hhi⟩ := DelayPool.clampInt_bounds (n := new) (hmin.trans hmax)
    have hslot : slot.val < s.raw.length := hlen ▸ (List.getElem?_eq_some_iff.1 hrow).1
    simp only [State.rawAt, List.getD_eq_getElem?_getD, List.getElem?_set_self hslot, Option.getD_some,
      toInt_ofInt_of_row s.cfg hmem hlo hhi]
    exact ⟨hlo, hhi⟩
  · have hother := hraw i r hr
    simp only [State.rawAt, List.getD_eq_getElem?_getD, List.getElem?_set_ne (Ne.symm hi)] at hother ⊢
    exact hother

theorem CommandEffect.rawInRange {s t : State} (h : CommandEffect s t) (hs : RawInRange s) : RawInRange t := by
  cases h with
  | param slot row new dirty hrow => exact rawInRange_mutate hs new dirty hrow
  | control | voice | read | push | setDelay | clear | get | release => exact rawInRange_congr rfl rfl hs

theorem hostStep_rawInRange {s t : State} (h : s.hostStep = .next t) (hs : RawInRange s) : RawInRange t := by
  obtain rfl | ⟨rest, ⟨c, -, rfl⟩ | ⟨u, r, hu, rfl⟩⟩ := hostStep_cases h
  · exact hs
  · exact rawInRange_congr rfl rfl hs
  · exact rawInRange_congr rfl rfl (hu.rawInRange (rawInRange_congr rfl rfl hs))

theorem resetOf_rawInRange (cfg : Cfg) : RawInRange (State.resetOf cfg) := by
  refine ⟨List.length_map .., fun i row hrow => ?_⟩
  have hmem := List.mem_of_getElem? hrow
  obtain ⟨-, hmin, hmax, -⟩ := row_bounds cfg hmem
  have hraw : (State.resetOf cfg).rawAt i = (BitVec.ofInt 32 row.defaultVal).toInt := by
    simp only [State.rawAt, State.resetOf, resetRaw, List.getD_eq_getElem?_getD, List.getElem?_map]
    rw [show cfg.val.table[i]? = some row from hrow]
    rfl
  rw [hraw, toInt_ofInt_of_row cfg hmem hmin hmax]
  exact ⟨hmin, hmax⟩

/-! ### LIVE -/

theorem liveInRange_congr {s t : State} (hc : t.cfg = s.cfg) (hl : t.live = s.live) (hv : VoicesKept s.voices t.voices)
    (h : LiveInRange s) : LiveInRange t := by
  obtain ⟨hlen, hlive, hstages⟩ := h
  refine ⟨?_, ?_, fun f v => (hv f v).stages (hstages f v)⟩
  · rwa [hc, hl]
  · rwa [hc, hl]

/-- A callback gives LIVE the value of its row's RAW, which is in range. -/
theorem liveInRange_callback {s : State} (hr : RawInRange s) (h : LiveInRange s) {slot : Fin 128} {row : Config.ParamRow}
    (hrow : s.cfg.val.table[slot.val]? = some row) :
    LiveInRange { s with live := s.live.set slot (liveOf row (s.rawAt slot)) } := by
  obtain ⟨hlen, hlive, hstages⟩ := h
  refine ⟨(List.length_set ..).trans hlen, fun i r hi => ?_, hstages⟩
  by_cases he : i = slot.val
  · subst he
    obtain rfl : row = r := Option.some.inj (hrow.symm.trans hi)
    obtain ⟨hlo, hhi⟩ := hr.2 _ row hrow
    exact ⟨_, hlo, hhi, List.getElem?_set_self (hlen ▸ (List.getElem?_eq_some_iff.1 hrow).1)⟩
  · simp only [List.getElem?_set_ne (Ne.symm he)]
    exact hlive i r hi

theorem EngineEffect.liveInRange {s t : State} (h : EngineEffect s t) (hr : RawInRange s) (hs : LiveInRange s) :
    LiveInRange t := by
  cases h with
  | start | silent | swap | unassigned => exact liveInRange_congr rfl rfl (.refl _) hs
  | callback slot row _ _ _ _ hrow hv =>
    have hlive := liveInRange_callback hr hs hrow
    exact liveInRange_congr (s := { s with live := s.live.set slot (liveOf row (s.rawAt slot)) }) rfl rfl hv hlive
  | apply _ _ hw => exact liveInRange_congr hw.cfg hw.live hw.kept hs
  | render _ _ _ hw => exact liveInRange_congr hw.requestWork.cfg hw.requestWork.live hw.kept hs

theorem resetOf_liveInRange (cfg : Cfg) : LiveInRange (State.resetOf cfg) := by
  refine ⟨List.length_map .., fun i row hrow => ?_, fun f v => (resetOf_bounds cfg f v).1⟩
  obtain ⟨-, hmin, hmax, -⟩ := row_bounds cfg (List.mem_of_getElem? hrow)
  exact ⟨row.defaultVal, hmin, hmax, List.getElem?_map.trans (congrArg _ hrow)⟩

end Sys2Proof.Machine

open Sys2Proof Sys2Proof.Machine

/-- Settles O58: RAW changes by clamped mutations only, a callback copies a RAW in range, and no step breaks a voice's
bounds. -/
theorem stepKeepsParameters : Obligations.StepKeepsParameters := by
  intro s t hraw hlive h
  obtain ⟨sched, hhost | rfl | rfl⟩ := step_cases h
  · obtain ⟨hcfg, -, hl, -, hkept⟩ := hostStep_keeps hhost
    exact ⟨hostStep_rawInRange hhost (rawInRange_congr rfl rfl hraw), liveInRange_congr hcfg hl hkept hlive⟩
  · have he := engineStep_cases { s with sched := sched }
    exact ⟨rawInRange_congr he.cfg he.raw hraw, he.liveInRange hraw hlive⟩
  · exact ⟨resetOf_rawInRange s.cfg, resetOf_liveInRange s.cfg⟩

/-- Settles O60: no step of any agent breaks a voice's bounds. -/
theorem stepKeepsBurst : Obligations.StepKeepsBurst :=
  fun _ _ hs h f v => (step_voicesKept h f v).burst (hs f v)

end

section
/-! Who writes what (10_state R110, R112, R115, R116, R143): the agent and the command or phase behind a change. -/

namespace Sys2Proof.Machine

open Sys2Proof.Claims

/-! ### RAW is written by three commands -/

/-- PARAM_SET, PARAM_ADD and PARAM_RESET. -/
def MutatesRaw (i : Instr) : Prop :=
  (∃ slot x, i = .paramSet slot x) ∨ (∃ slot alt x, i = .paramAdd slot alt x) ∨ ∃ slot, i = .paramReset slot

section
variable {s : State}

theorem raw_diagnostic {pass : State} (h : pass.raw = s.raw) : (s.diagnostic pass).raw = s.raw := by
  obtain ⟨-, e⟩ | ⟨-, e⟩ := s.diagnostic_cases pass
  · rwa [e]
  · rw [e, State.reject_raw]

theorem raw_onLine {l : Nat} {pass : State} (h : pass.raw = s.raw) : (s.onLine l pass).raw = s.raw := by
  obtain ⟨-, e⟩ | ⟨-, e⟩ := s.onLine_cases l pass
  · rwa [e]
  · rw [e, State.reject_raw]

theorem raw_onFamily {n : Nat} {pass : Family → State} (h : ∀ f, (pass f).raw = s.raw) :
    (s.onFamily n pass).raw = s.raw := by
  obtain ⟨f, -, e⟩ | ⟨-, e⟩ := s.onFamily_cases n pass
  · rw [e, h f]
  · rw [e, State.reject_raw]

theorem raw_onStringFamily {n : Nat} {pass : State} (h : pass.raw = s.raw) : (s.onStringFamily n pass).raw = s.raw := by
  obtain ⟨-, e⟩ | ⟨-, e⟩ := s.onStringFamily_cases n pass
  · rwa [e]
  · rw [e, State.reject_raw]

theorem raw_onSlot {slot : Fin 128} {pass : Config.ParamRow → State} (h : ∀ row, (pass row).raw = s.raw) :
    (s.onSlot slot pass).raw = s.raw := by
  obtain ⟨row, -, e⟩ | ⟨-, e⟩ := s.onSlot_cases slot pass
  · rw [e, h row]
  · rw [e, State.reject_raw]

end

/-- Every other command keeps RAW. -/
theorem exec_raw {i : Instr} {s t : State} (h : exec i s = .next t) : t.raw = s.raw ∨ MutatesRaw i := by
  cases i <;> simp only [exec] at h <;> injection h with h <;> subst h
  case paramSet => exact .inr (.inl ⟨_, _, rfl⟩)
  case paramAdd => exact .inr (.inr (.inl ⟨_, _, _, rfl⟩))
  case paramReset => exact .inr (.inr (.inr ⟨_, rfl⟩))
  all_goals left
  case nop | readStatus | noteOn | noteOff | forceStopAll | clearStatus | engineStop | engineRun => rfl
  case setInstrument => exact raw_onFamily fun _ => rfl
  case paramGet => exact raw_onSlot fun _ => rfl
  case dlPush | dlGetLast | dlProcess | dlSetDelay | dlClear => exact raw_diagnostic (raw_onLine rfl)
  case allocGet => exact raw_diagnostic rfl
  case allocRelease =>
    refine raw_diagnostic (raw_onLine ?_)
    split <;> rfl
  case tfSetDelay | tfProcess | lossSetCutoff | lossProcess | lossPhaseDelay | dispSetGD | dispProcess | dispPhaseDelay =>
    exact raw_diagnostic (raw_onFamily fun _ => rfl)
  case lossSetType | dispSetStages =>
    refine raw_diagnostic (raw_onFamily fun _ => ?_)
    split <;> rfl
  case noiseSeed | noiseNext => exact raw_diagnostic (raw_onStringFamily rfl)

theorem hostStep_raw {s t : State} (h : s.hostStep = .next t) (hr : t.raw ≠ s.raw) :
    ∃ i rest, decode s.port = .command i rest ∧ MutatesRaw i := by
  unfold State.hostStep at h
  split at h
  · rename_i i rest hd
    exact ⟨i, rest, hd, (exec_raw h).resolve_left hr⟩
  · injection h with h
    exact absurd (congrArg State.raw h.symm) hr
  · injection h with h
    exact absurd (congrArg State.raw h.symm) hr

/-! ### What the ENGINE's phases write -/

section
variable {s t : State} (h : EngineEffect s t)
include h

theorem EngineEffect.active_changed (hne : t.active ≠ s.active) : s.phase = .apply ∧ t.phase = .render := by
  cases h with
  | start | silent | swap | unassigned | callback => exact absurd rfl hne
  | apply _ hp _ => exact ⟨hp, rfl⟩
  | render t _ _ hw => exact absurd (congrArg State.active hw.frame) hne

theorem EngineEffect.live_changed (hne : t.live ≠ s.live) : t.phase ≠ s.phase ∧ ∃ slot, s.phase = .callback slot := by
  cases h with
  | start | silent | swap | unassigned => exact absurd rfl hne
  | callback slot _ _ _ _ hp => exact ⟨hp ▸ nextPhase_ne_callback _ slot, slot, hp⟩
  | apply _ _ hw => exact absurd hw.live hne
  | render _ _ _ hw => exact absurd hw.requestWork.live hne

theorem EngineEffect.stopped (hs : s.mode = .run) (ht : t.mode = .stop) :
    s.phase = .idle ∧ s.stopReq = true ∧ t.stopReq = false ∧
      t.emitted = s.emitted ++ [⟨silence s.cfg.val.block, silence s.cfg.val.block⟩] := by
  have hrun : s.mode ≠ .stop := by rw [hs]; exact nofun
  cases h with
  | start | swap | unassigned | callback => exact absurd ht hrun
  | silent hp hm => exact ⟨hp, hm.resolve_left hrun, rfl, rfl⟩
  | apply _ _ hw => exact absurd (hw.mode.symm.trans ht) hrun
  | render _ _ _ hw => exact absurd (hw.requestWork.mode.symm.trans ht) hrun

end

/-! ### Who moves -/

/-- `step_cases` with the agent named. -/
theorem step_moves {s t : State} (h : step s = .next t) : ∃ sched, let u : State := { s with sched := sched }
    (HostMoves s ∧ u.hostStep = .next t) ∨ (EngineMoves s ∧ t = u.engineStep) ∨
      (s.sched.head? = some .reset ∧ t = u.resetStep) := by
  cases hs : s.sched with
  | cons a later =>
    rw [step_of_sched hs] at h
    refine ⟨later, ?_⟩
    cases a with
    | host => exact .inl ⟨.inl (by rw [hs]; rfl), h⟩
    | engine =>
      injection h with h
      exact .inr (.inl ⟨.inl (by rw [hs]; rfl), h.symm⟩)
    | reset =>
      injection h with h
      exact .inr (.inr ⟨rfl, h.symm⟩)
  | nil =>
    refine ⟨s.sched, ?_⟩
    by_cases hw : decode s.port = .waiting
    · rw [step_of_waiting hs hw] at h
      injection h with h
      exact .inr (.inl ⟨.inr ⟨hs, hw⟩, h.symm⟩)
    · have hd : s.defaultAgent = .host := by
        unfold State.defaultAgent
        split
        · contradiction
        · rfl
      simp only [step, hs, hd] at h
      exact .inl ⟨.inr ⟨hs, hw⟩, h⟩

end Sys2Proof.Machine

open Sys2Proof Sys2Proof.Machine Sys2Proof.Claims

/-- Settles O13: the HOST's commands leave the configuration, ACTIVE and LIVE, the ENGINE leaves the configuration and RAW, and
each other change belongs to one phase of it. -/
theorem whoWritesWhat : Obligations.WhoWritesWhat := by
  intro s t h
  obtain ⟨sched, ⟨hmoves, hhost⟩ | ⟨hmoves, rfl⟩ | ⟨hreset, rfl⟩⟩ := step_moves h
  · obtain ⟨hcfg, hactive, hlive, hmode, -⟩ := hostStep_keeps hhost
    refine ⟨hcfg, fun _ => ⟨fun hne => absurd hactive hne, fun hne => absurd hlive hne,
      fun hne => ⟨hmoves, hostStep_raw (s := { s with sched := sched }) hhost hne⟩, fun hstop hrun => ?_⟩⟩
    exact absurd (hrun.symm.trans (hmode hstop)) nofun
  · have he := engineStep_cases { s with sched := sched }
    exact ⟨he.cfg, fun _ => ⟨fun hne => ⟨hmoves, he.active_changed hne⟩, fun hne => ⟨hmoves, he.live_changed hne⟩,
      fun hne => absurd he.raw hne, fun hstop hrun => ⟨hmoves, he.stopped hrun hstop⟩⟩⟩
  · exact ⟨rfl, fun hne => absurd hreset hne⟩

end

section
/-! The fields of word 0 (30_encoding R301–R309): to take a field out of a word and put it back at its place is to mask the
word, so what the decoder and the encoder do to the operands is the algebra of masks. -/

namespace Sys2Proof

/-- The mask of the bits hi..lo. -/
def fieldMask (hi lo : Nat) : Word := place (2 ^ (hi + 1 - lo) - 1) lo

theorem fieldOf_lt (w : Word) (hi lo : Nat) : fieldOf w hi lo < 2 ^ (hi + 1 - lo) := Nat.mod_lt _ (by positivity)

theorem testBit_fieldOf (w : Word) (hi lo k : Nat) :
    (fieldOf w hi lo).testBit k = (decide (k < hi + 1 - lo) && w.getLsbD (lo + k)) := by
  simp [fieldOf, Nat.testBit_mod_two_pow, Nat.testBit_shiftRight, BitVec.getLsbD]

theorem getLsbD_place (n lo : Nat) {k : Nat} (hk : k < 32) :
    (place n lo).getLsbD k = (decide (lo ≤ k) && n.testBit (k - lo)) := by
  have hsub : k - lo < 32 := by omega
  rw [place, BitVec.getLsbD_shiftLeft, BitVec.getLsbD_ofNat]
  simp [hk, hsub, ← decide_not]

theorem place_fieldOf (w : Word) (hi lo : Nat) : place (fieldOf w hi lo) lo = w &&& fieldMask hi lo := by
  refine BitVec.eq_of_getLsbD_eq fun k hk => ?_
  rw [BitVec.getLsbD_and, fieldMask, getLsbD_place _ _ hk, getLsbD_place _ _ hk, testBit_fieldOf,
    Nat.testBit_two_pow_sub_one]
  by_cases hlo : lo ≤ k
  · simp [hlo, Bool.and_comm]
  · simp [hlo]

section
variable {hi lo : Nat} (hhi : hi < 32)
include hhi

theorem fieldOf_place {n : Nat} (hn : n < 2 ^ (hi + 1 - lo)) : fieldOf (place n lo) hi lo = n := by
  refine Nat.eq_of_testBit_eq fun k => ?_
  rw [testBit_fieldOf]
  by_cases hk : k < hi + 1 - lo
  · rw [getLsbD_place _ _ (by omega)]
    simp [hk]
  · rw [Nat.testBit_eq_false_of_lt (hn.trans_le (Nat.pow_le_pow_right (by decide) (not_lt.1 hk)))]
    simp [hk]

theorem fieldOf_and_fieldMask (w : Word) : fieldOf (w &&& fieldMask hi lo) hi lo = fieldOf w hi lo := by
  rw [← place_fieldOf, fieldOf_place hhi (fieldOf_lt w hi lo)]

/-- A mask that covers a field keeps it. -/
theorem fieldOf_and {m : Word} (w : Word) (hm : m &&& fieldMask hi lo = fieldMask hi lo) :
    fieldOf (w &&& m) hi lo = fieldOf w hi lo := by
  rw [← fieldOf_and_fieldMask hhi (w &&& m), BitVec.and_assoc, hm, fieldOf_and_fieldMask hhi]

/-- An operand that fits its field is 0 under a mask apart from it. -/
theorem place_and_eq_zero {n : Nat} {m : Word} (hn : n < 2 ^ (hi + 1 - lo)) (hm : fieldMask hi lo &&& m = 0#32) :
    place n lo &&& m = 0#32 := by
  rw [← fieldOf_place hhi hn, place_fieldOf, BitVec.and_assoc, hm, BitVec.and_zero]

end

theorem or_and_of_apart {a m : Word} (x : Word) (h : a &&& m = 0#32) : (x ||| a) &&& m = x &&& m := by
  rw [BitVec.and_or_distrib_right, h, BitVec.or_zero]

end Sys2Proof
end

section
/-! The opcode map (30_encoding R311–R313): each (UNIT, OP) has one row, a word that matches a row holds the row's (UNIT, OP),
and so `classify` and `decode` are said in terms of rows that a word matches. -/

namespace Sys2Proof

open Sys2Proof.Claims

/-! ### Rows -/

/-- A row's match holds its (UNIT, OP), and its mask covers UNIT and OP. -/
theorem opRows_headers : ∀ r ∈ opRows,
    (unitOf r.pattern = r.unit ∧ opOf r.pattern = r.op) ∧
      r.mask &&& fieldMask 31 28 = fieldMask 31 28 ∧ r.mask &&& fieldMask 27 24 = fieldMask 27 24 := by decide

theorem opRows_nodup : (opRows.map fun r => (r.unit, r.op)).Nodup := by decide

theorem header_of_match {r : OpRow} {w : Word} (hr : r ∈ opRows) (h : w &&& r.mask = r.pattern) :
    unitOf w = r.unit ∧ opOf w = r.op := by
  obtain ⟨⟨hunit, hop⟩, hmu, hmo⟩ := opRows_headers r hr
  rw [← hunit, ← hop, ← h]
  exact ⟨(fieldOf_and (by decide) w hmu).symm, (fieldOf_and (by decide) w hmo).symm⟩

theorem rowFor_eq_some {u o : Nat} {r : OpRow} : rowFor u o = some r ↔ r ∈ opRows ∧ r.unit = u ∧ r.op = o := by
  have found {q : OpRow} (h : rowFor u o = some q) : q ∈ opRows ∧ q.unit = u ∧ q.op = o := by
    simpa using And.intro (List.mem_of_find?_eq_some h) (List.find?_some h)
  refine ⟨found, fun ⟨hr, hu, ho⟩ => ?_⟩
  obtain ⟨q, hq⟩ : ∃ q, rowFor u o = some q :=
    Option.isSome_iff_exists.1 (List.find?_isSome.2 ⟨r, hr, by simp [hu, ho]⟩)
  obtain ⟨hmem, hqu, hqo⟩ := found hq
  rw [hq, List.inj_on_of_nodup_map opRows_nodup hmem hr (by rw [hqu, hqo, hu, ho])]

theorem rowFor_of_match {r : OpRow} {w : Word} (hr : r ∈ opRows) (h : w &&& r.mask = r.pattern) :
    rowFor (unitOf w) (opOf w) = some r := by
  obtain ⟨hu, ho⟩ := header_of_match hr h
  exact rowFor_eq_some.2 ⟨hr, hu.symm, ho.symm⟩

/-! ### Lengths and reserved pairs -/

theorem mem_twoWordOps {u o : Nat} : (u, o) ∈ twoWordOps ↔ hasPayload u o := by
  simp only [twoWordOps, hasPayload, List.mem_append, List.mem_cons, List.not_mem_nil, Prod.mk.injEq, and_or_left, or_assoc,
    or_false]

theorem cmdLength_eq_two {w : Word} : cmdLength w = 2 ↔ hasPayload (unitOf w) (opOf w) := by
  rw [← mem_twoWordOps, cmdLength]
  simp

theorem not_hasPayload_of_reserved {u o : Nat} (h : reservedPair u o) : ¬hasPayload u o := by
  unfold reservedPair at h
  unfold hasPayload
  omega

theorem rowFor_of_reserved {u o : Nat} (h : reservedPair u o) : rowFor u o = none := by
  have hrows : ∀ r ∈ opRows, ¬reservedPair r.unit r.op := by
    unfold reservedPair
    decide
  refine Option.eq_none_iff_forall_ne_some.2 fun r hr => ?_
  obtain ⟨hmem, rfl, rfl⟩ := rowFor_eq_some.1 hr
  exact hrows r hmem h

theorem no_match_of_reserved {w : Word} (h : reservedPair (unitOf w) (opOf w)) : ∀ r ∈ opRows, w &&& r.mask ≠ r.pattern :=
  fun _ hr hm => absurd ((rowFor_of_match hr hm).symm.trans (rowFor_of_reserved h)) nofun

/-! ### classify -/

section
variable (w p : Word) (rest : List Word)

theorem classify_of_match {r : OpRow} (hr : r ∈ opRows) (h : w &&& r.mask = r.pattern) :
    classify w p rest = .command (r.build w p) rest := by
  simp [classify, rowFor_of_match hr h, h]

theorem classify_of_no_match (h : ∀ r ∈ opRows, w &&& r.mask ≠ r.pattern) :
    ∃ why, classify w p rest = .illegal why rest := by
  unfold classify
  split
  · exact ⟨_, rfl⟩
  · rename_i r hr
    exact ⟨_, if_neg (h r (rowFor_eq_some.1 hr).1)⟩

/-- A word matches a row and stands for the row's command, or it matches none and is illegal. -/
theorem classify_cases :
    (∃ r ∈ opRows, w &&& r.mask = r.pattern ∧ classify w p rest = .command (r.build w p) rest) ∨
      ((∀ r ∈ opRows, w &&& r.mask ≠ r.pattern) ∧ ∃ why, classify w p rest = .illegal why rest) := by
  by_cases h : ∃ r ∈ opRows, w &&& r.mask = r.pattern
  · obtain ⟨r, hr, hm⟩ := h
    exact .inl ⟨r, hr, hm, classify_of_match w p rest hr hm⟩
  · have h' : ∀ r ∈ opRows, w &&& r.mask ≠ r.pattern := fun r hr hm => h ⟨r, hr, hm⟩
    exact .inr ⟨h', classify_of_no_match w p rest h'⟩

/-! ### decode -/

variable {w}

theorem decode_of_payload (h : hasPayload (unitOf w) (opOf w)) : decode (w :: p :: rest) = classify w p rest := by
  simp [decode, cmdLength_eq_two.2 h]

theorem decode_of_no_payload (h : ¬hasPayload (unitOf w) (opOf w)) : decode (w :: rest) = classify w 0#32 rest := by
  simp [decode, mt cmdLength_eq_two.1 h]

end

/-- With a second word on the port decoding is `classify`, whichever the length. -/
theorem decode_eq_classify (w p : Word) (rest : List Word) : ∃ q ws, decode (w :: p :: rest) = classify w q ws ∧
    (hasPayload (unitOf w) (opOf w) → ws = rest) ∧ (¬hasPayload (unitOf w) (opOf w) → ws = p :: rest) := by
  by_cases h : hasPayload (unitOf w) (opOf w)
  · exact ⟨p, rest, decode_of_payload p rest h, fun _ => rfl, fun hn => absurd h hn⟩
  · exact ⟨0#32, p :: rest, decode_of_no_payload (p :: rest) h, fun hp => absurd hp h, fun _ => rfl⟩

end Sys2Proof

open Sys2Proof Sys2Proof.Claims

/-- Settles O4: `classify` looks for a row that the word matches, and the matches of two rows differ in (UNIT, OP). -/
theorem decodesIffOneRowMatches : Obligations.DecodesIffOneRowMatches := by
  refine ⟨fun w0 p rest => ?_, ?_⟩
  · obtain ⟨q, ws, hd, -, -⟩ := decode_eq_classify w0 p rest
    rw [hd]
    constructor
    · rintro ⟨i, rest', hi⟩
      obtain ⟨r, hr, hm, -⟩ | ⟨-, why, hc⟩ := classify_cases w0 q ws
      · exact ⟨r, hr, hm⟩
      · exact absurd (hi.symm.trans hc) nofun
    · rintro ⟨r, hr, hm⟩
      exact ⟨_, _, classify_of_match w0 q ws hr hm⟩
  · refine (List.pairwise_map.1 opRows_nodup).imp_of_mem fun hr hq hne w ⟨hwr, hwq⟩ => hne ?_
    obtain ⟨hru, hro⟩ := header_of_match hr hwr
    obtain ⟨hqu, hqo⟩ := header_of_match hq hwq
    rw [← hru, ← hro, hqu, hqo]

/-- Settles O5: `classify` answers with the words after the command, matched or not. -/
theorem lengthFromOpcodeAlone : Obligations.LengthFromOpcodeAlone := by
  intro w0 p rest
  obtain ⟨q, ws, hd, hlong, hshort⟩ := decode_eq_classify w0 p rest
  refine ⟨ws, ?_, hlong, hshort⟩
  rw [hd]
  obtain ⟨r, -, -, hc⟩ | ⟨-, why, hc⟩ := classify_cases w0 q ws
  · exact .inl ⟨_, hc⟩
  · exact .inr ⟨why, hc⟩

end

section
/-! The decoder after the encoder and before it (30_encoding R300–R311): a word that matches a row is what the row's format
makes of the word's own fields, and what a format makes of operands that fit matches the row and holds those operands. -/

namespace Sys2Proof

/-! ### The words of a row's command -/

/-- The words of the command of a row with word 0 w and payload p. -/
def OpRow.words (r : OpRow) (w p : Word) : List Word := if (r.unit, r.op) ∈ twoWordOps then [w, p] else [w]

theorem OpRow.head?_words (r : OpRow) (w p : Word) : (r.words w p).head? = some w := by
  unfold OpRow.words
  split <;> rfl

/-- The command of one word reads no payload. -/
theorem opRows_build_short : ∀ r ∈ opRows, (r.unit, r.op) ∉ twoWordOps → ∀ w p, r.build w p = r.build w 0#32 := by
  simp [opRows, engineRows, paramRows, delayRows, filterRows, twoWordOps]

theorem decode_words {r : OpRow} {w : Word} (hr : r ∈ opRows) (h : w &&& r.mask = r.pattern) (p : Word) (rest : List Word) :
    decode (r.words w p ++ rest) = .command (r.build w p) rest := by
  obtain ⟨hu, ho⟩ := header_of_match hr h
  by_cases hp : (r.unit, r.op) ∈ twoWordOps
  · have hlong := mem_twoWordOps.1 hp
    rw [← hu, ← ho] at hlong
    rw [OpRow.words, if_pos hp]
    exact (decode_of_payload p rest hlong).trans (classify_of_match w p rest hr h)
  · have hshort := mt mem_twoWordOps.2 hp
    rw [← hu, ← ho] at hshort
    rw [OpRow.words, if_neg hp, opRows_build_short r hr hp]
    exact (decode_of_no_payload rest hshort).trans (classify_of_match w 0#32 rest hr h)

theorem command_of_classify {w p : Word} {ws rest : List Word} {i : Instr} (h : classify w p ws = .command i rest) :
    ∃ r ∈ opRows, w &&& r.mask = r.pattern ∧ i = r.build w p ∧ rest = ws := by
  obtain ⟨r, hr, hm, hc⟩ | ⟨-, why, hc⟩ := classify_cases w p ws
  · obtain ⟨rfl, rfl⟩ := Decoded.command.inj (h.symm.trans hc)
    exact ⟨r, hr, hm, rfl, rfl⟩
  · exact absurd (h.symm.trans hc) nofun

/-- Whatever decodes as a command is the words of a row that the first of them matches. -/
theorem eq_words_of_decode {ws rest : List Word} {i : Instr} (h : decode ws = .command i rest) :
    ∃ r ∈ opRows, ∃ w p, w &&& r.mask = r.pattern ∧ i = r.build w p ∧ ws = r.words w p ++ rest := by
  obtain _ | ⟨w, ws⟩ := ws
  · exact absurd h nofun
  by_cases hp : Claims.hasPayload (unitOf w) (opOf w)
  · obtain _ | ⟨p, ws⟩ := ws
    · simp [decode, cmdLength_eq_two.2 hp] at h
    rw [decode_of_payload p ws hp] at h
    obtain ⟨r, hr, hm, hi, rfl⟩ := command_of_classify h
    obtain ⟨hu, ho⟩ := header_of_match hr hm
    rw [hu, ho, ← mem_twoWordOps] at hp
    exact ⟨r, hr, w, p, hm, hi, by rw [OpRow.words, if_pos hp]; rfl⟩
  · rw [decode_of_no_payload ws hp] at h
    obtain ⟨r, hr, hm, hi, rfl⟩ := command_of_classify h
    obtain ⟨hu, ho⟩ := header_of_match hr hm
    rw [hu, ho, ← mem_twoWordOps] at hp
    exact ⟨r, hr, w, 0#32, hm, hi, by rw [OpRow.words, if_neg hp]; rfl⟩

/-! ### Operands of the fields' types -/

theorem lineFits_lineOf (w : Word) : lineFits (lineOf w) = true := decide_eq_true (fieldOf_lt w 7 0)

theorem famFits_instrumentOf (w : Word) : famFits (instrumentOf w) = true := decide_eq_true (fieldOf_lt w 1 0)

theorem famFits_famOf (w : Word) : famFits (famOf w) = true := decide_eq_true (fieldOf_lt w 5 4)

theorem stagesFit_stagesOf (w : Word) : stagesFit (stagesOf w) = true := decide_eq_true (fieldOf_lt w 10 8)

@[simp] theorem val_chOf (w : Word) : (chOf w).val = fieldOf w 19 16 := Nat.mod_eq_of_lt (fieldOf_lt w 19 16)

@[simp] theorem val_noteOf (w : Word) : (noteOf w).val = fieldOf w 14 8 := Nat.mod_eq_of_lt (fieldOf_lt w 14 8)

@[simp] theorem val_velOf (w : Word) : (velOf w).val = fieldOf w 6 0 := Nat.mod_eq_of_lt (fieldOf_lt w 6 0)

@[simp] theorem val_slotOf (w : Word) : (slotOf w).val = fieldOf w 6 0 := Nat.mod_eq_of_lt (fieldOf_lt w 6 0)

@[simp] theorem val_voiceOf (w : Word) : (voiceOf w).val = fieldOf w 2 0 := Nat.mod_eq_of_lt (fieldOf_lt w 2 0)

theorem bit_cases (w : Word) (k : Nat) : fieldOf w k k = 0 ∨ fieldOf w k k = 1 := by
  have := fieldOf_lt w k k
  rw [Nat.add_sub_cancel_left] at this
  omega

@[simp] theorem toNat_altOf (w : Word) : (altOf w).toNat = fieldOf w 8 8 := by
  rcases bit_cases w 8 with h | h <;> simp [altOf, h]

@[simp] theorem typeBit_typeOf (w : Word) : typeBit (typeOf w) = fieldOf w 8 8 := by
  rcases bit_cases w 8 with h | h <;> simp [typeOf, h, typeBit]

@[simp] theorem place_zero (lo : Nat) : place 0 lo = 0#32 := by simp [place]

/-! ### A matching word from its fields

A row's mask and the fields of its format together are the whole word. -/

section
variable {w p m : Word} (h : w &&& m = p)
include h

theorem formatZ_of_match (hm : m = BitVec.allOnes 32) : p = w := by rw [← h, hm, BitVec.and_allOnes]

theorem formatI_of_match (hm : m ||| fieldMask 1 0 = BitVec.allOnes 32) : p ||| place (instrumentOf w) 0 = w := by
  simp only [instrumentOf, place_fieldOf, ← h, ← BitVec.and_or_distrib_left, hm, BitVec.and_allOnes]

theorem formatN_of_match (hm : m ||| fieldMask 19 16 ||| fieldMask 14 8 ||| fieldMask 6 0 = BitVec.allOnes 32) :
    formatN p (chOf w) (noteOf w) (velOf w) = w := by
  simp only [formatN, val_chOf, val_noteOf, val_velOf, place_fieldOf, ← h, ← BitVec.and_or_distrib_left, hm,
    BitVec.and_allOnes]

theorem formatN_note_of_match (hm : m ||| fieldMask 14 8 = BitVec.allOnes 32) : formatN p 0 (noteOf w) 0 = w := by
  simp only [formatN, val_noteOf, place_fieldOf, Fin.val_zero, place_zero, BitVec.or_zero, ← h, ← BitVec.and_or_distrib_left,
    hm, BitVec.and_allOnes]

theorem formatS_of_match (hm : m ||| fieldMask 6 0 = BitVec.allOnes 32) : formatS p (slotOf w) false = w := by
  simp only [formatS, val_slotOf, place_fieldOf, Bool.toNat_false, place_zero, BitVec.or_zero, ← h,
    ← BitVec.and_or_distrib_left, hm, BitVec.and_allOnes]

theorem formatS_alt_of_match (hm : m ||| fieldMask 8 8 ||| fieldMask 6 0 = BitVec.allOnes 32) :
    formatS p (slotOf w) (altOf w) = w := by
  simp only [formatS, val_slotOf, toNat_altOf, place_fieldOf, ← h, ← BitVec.and_or_distrib_left, hm, BitVec.and_allOnes]

theorem formatL_of_match (hm : m ||| fieldMask 7 0 = BitVec.allOnes 32) : formatL p (lineOf w) = w := by
  simp only [formatL, lineOf, place_fieldOf, ← h, ← BitVec.and_or_distrib_left, hm, BitVec.and_allOnes]

theorem formatV_of_match (hm : m ||| fieldMask 5 4 ||| fieldMask 2 0 = BitVec.allOnes 32) :
    formatV p 0 (famOf w) (voiceOf w) = w := by
  simp only [formatV, val_voiceOf, famOf, place_fieldOf, place_zero, BitVec.or_zero, ← h, ← BitVec.and_or_distrib_left, hm,
    BitVec.and_allOnes]

theorem formatV_type_of_match (hm : m ||| fieldMask 8 8 ||| fieldMask 5 4 ||| fieldMask 2 0 = BitVec.allOnes 32) :
    formatV p (typeBit (typeOf w)) (famOf w) (voiceOf w) = w := by
  simp only [formatV, typeBit_typeOf, famOf, val_voiceOf, place_fieldOf, ← h, ← BitVec.and_or_distrib_left, hm,
    BitVec.and_allOnes]

theorem formatV_stages_of_match (hm : m ||| fieldMask 10 8 ||| fieldMask 5 4 ||| fieldMask 2 0 = BitVec.allOnes 32) :
    formatV p (stagesOf w) (famOf w) (voiceOf w) = w := by
  simp only [formatV, stagesOf, famOf, val_voiceOf, place_fieldOf, ← h, ← BitVec.and_or_distrib_left, hm, BitVec.and_allOnes]

end

/-! ### Every row's command is encoded by the word it was read from -/

/-- What the row builds from a word that matches it is a well-formed command with exactly those words. -/
def OpRow.Faithful (r : OpRow) : Prop :=
  ∀ w p, w &&& r.mask = r.pattern → (r.build w p).wellFormed = true ∧ encode (r.build w p) = r.words w p

theorem faithful_of_head {r : OpRow} {head : Word → Word} (hhead : ∀ w, w &&& r.mask = r.pattern → head w = w)
    (henc : ∀ w p, encode (r.build w p) = r.words (head w) p) (hwf : ∀ w p, (r.build w p).wellFormed = true) : r.Faithful :=
  fun w p h => ⟨hwf w p, by rw [henc, hhead w h]⟩

theorem engineRows_faithful : ∀ r ∈ engineRows, r.Faithful := by
  simp only [engineRows, List.forall_mem_cons]
  refine ⟨?nop, ?noteOn, ?noteOff, ?setInstrument, ?forceStopAll, ?readStatus, ?clearStatus, ?engineStop, ?engineRun, nofun⟩
  case noteOn => exact faithful_of_head (fun _ h => formatN_of_match h (by decide)) (fun _ _ => rfl) fun _ _ => rfl
  case noteOff => exact faithful_of_head (fun _ h => formatN_note_of_match h (by decide)) (fun _ _ => rfl) fun _ _ => rfl
  case setInstrument =>
    exact faithful_of_head (fun _ h => formatI_of_match h (by decide)) (fun _ _ => rfl) fun w _ => famFits_instrumentOf w
  all_goals exact faithful_of_head (fun _ h => formatZ_of_match h (by decide)) (fun _ _ => rfl) fun _ _ => rfl

theorem paramRows_faithful : ∀ r ∈ paramRows, r.Faithful := by
  simp only [paramRows, List.forall_mem_cons]
  refine ⟨?paramSet, ?paramAdd, ?paramReset, ?paramGet, nofun⟩
  case paramAdd => exact faithful_of_head (fun _ h => formatS_alt_of_match h (by decide)) (fun _ _ => rfl) fun _ _ => rfl
  all_goals exact faithful_of_head (fun _ h => formatS_of_match h (by decide)) (fun _ _ => rfl) fun _ _ => rfl

theorem delayRows_faithful : ∀ r ∈ delayRows, r.Faithful := by
  simp only [delayRows, List.forall_mem_cons]
  refine ⟨?dlPush, ?dlGetLast, ?dlProcess, ?dlSetDelay, ?dlClear, ?allocGet, ?allocRelease, nofun⟩
  case allocGet => exact faithful_of_head (fun _ h => formatZ_of_match h (by decide)) (fun _ _ => rfl) fun _ _ => rfl
  all_goals exact faithful_of_head (fun _ h => formatL_of_match h (by decide)) (fun _ _ => rfl) fun w _ => lineFits_lineOf w

theorem filterRows_faithful : ∀ r ∈ filterRows, r.Faithful := by
  simp only [filterRows, List.forall_mem_cons]
  refine ⟨?tfSetDelay, ?tfProcess, ?lossSetCutoff, ?lossSetType, ?lossProcess, ?lossPhaseDelay, ?dispSetGD, ?dispSetStages,
    ?dispProcess, ?dispPhaseDelay, ?noiseSeed, ?noiseNext, nofun⟩
  case lossSetType =>
    exact faithful_of_head (fun _ h => formatV_type_of_match h (by decide)) (fun _ _ => rfl) fun w _ => famFits_famOf w
  case dispSetStages =>
    exact faithful_of_head (fun _ h => formatV_stages_of_match h (by decide)) (fun _ _ => rfl) fun w _ =>
      Bool.and_eq_true_iff.2 ⟨famFits_famOf w, stagesFit_stagesOf w⟩
  all_goals exact faithful_of_head (fun _ h => formatV_of_match h (by decide)) (fun _ _ => rfl) fun w _ => famFits_famOf w

theorem opRows_faithful : ∀ r ∈ opRows, r.Faithful := by
  simp only [opRows, List.forall_mem_append]
  exact ⟨⟨⟨engineRows_faithful, paramRows_faithful⟩, delayRows_faithful⟩, filterRows_faithful⟩

end Sys2Proof

open Sys2Proof

/-- Settles O2: a command comes from a row, and every row's command is encoded by the words it was read from. -/
theorem encodeOfDecode : Obligations.EncodeOfDecode := by
  intro ws i rest h
  obtain ⟨r, hr, w, p, hm, rfl, rfl⟩ := eq_words_of_decode h
  obtain ⟨hwf, henc⟩ := opRows_faithful r hr w p hm
  exact ⟨hwf, by rw [henc]⟩

end

section
/-! The decoder after the encoder (30_encoding R300–R311): the word that a format makes of operands that fit matches the
row and holds each operand in its field, so the row builds the command back. -/

namespace Sys2Proof

open Sys2Proof.Machine (LossType)
open Sys2Proof.Laws.HeaderFields (opcode)

/-! ### Operands that fit -/

theorem line_lt {line : Nat} (h : lineFits line = true) : line < 2 ^ 8 := by simpa [lineFits] using h

theorem fam_lt {fam : Nat} (h : famFits fam = true) : fam < 2 ^ 2 := by simpa [famFits] using h

theorem stages_lt {stages : Nat} (h : stagesFit stages = true) : stages < 2 ^ 3 := by simpa [stagesFit] using h

/-- A word that holds an operand, and nothing else, in the operand's field. -/
theorem fieldOf_eq_of_and {w : Word} {n hi lo : Nat} (hhi : hi < 32) (hn : n < 2 ^ (hi + 1 - lo))
    (hw : w &&& fieldMask hi lo = place n lo &&& fieldMask hi lo) : fieldOf w hi lo = n := by
  rw [← fieldOf_and_fieldMask hhi, hw, fieldOf_and_fieldMask hhi, fieldOf_place hhi hn]

theorem noteOf_eq {w : Word} {note : Fin 128} (h : fieldOf w 14 8 = note) : noteOf w = note := Fin.ext ((val_noteOf w).trans h)

theorem slotOf_eq {w : Word} {slot : Fin 128} (h : fieldOf w 6 0 = slot) : slotOf w = slot := Fin.ext ((val_slotOf w).trans h)

theorem altOf_eq {w : Word} {alt : Bool} (h : fieldOf w 8 8 = alt.toNat) : altOf w = alt := by
  rw [altOf, h]
  cases alt <;> rfl

/-- TYPE is the low bit of ARG. -/
theorem typeOf_eq {w : Word} {ty : LossType} (h : stagesOf w = typeBit ty) : typeOf w = ty := by
  have hbit : fieldOf w 8 8 = stagesOf w % 2 := (Nat.mod_mod_of_dvd (w.toNat >>> 8) (by decide)).symm
  rw [typeOf, hbit, h]
  cases ty <;> rfl

/-! ### The row builds the command back -/

/-- A match has no bit outside its mask, and none in an operand's place. -/
theorem opRows_patterns : ∀ r ∈ opRows, r.pattern &&& r.mask = r.pattern ∧ r.pattern &&& fieldMask 23 0 = 0#32 := by decide

/-- A command that its row builds from a word that matches decodes from its own words. -/
theorem decode_encode_of_build {i : Instr} {r : OpRow} {w p : Word} (hr : r ∈ opRows) (hm : w &&& r.mask = r.pattern)
    (hb : r.build w p = i) (rest : List Word) : decode (encode i ++ rest) = .command i rest := by
  obtain ⟨-, henc⟩ := opRows_faithful r hr w p hm
  rw [← hb, henc, decode_words hr hm]

section
variable {i : Instr} {r : OpRow} (hrow : rowFor (opcode i).1 (opcode i).2 = some r)
include hrow

theorem row_pattern_and {m : Word} (hm : fieldMask 23 0 &&& m = m) : r.pattern &&& m = 0#32 := by
  obtain ⟨-, hoperands⟩ := opRows_patterns r (rowFor_eq_some.1 hrow).1
  rw [← hm, ← BitVec.and_assoc, hoperands, BitVec.zero_and]

variable (rest : List Word)

theorem decode_encode_formatZ (hb : r.build r.pattern ((encode i).getD 1 0#32) = i) :
    decode (encode i ++ rest) = .command i rest := by
  have hr := (rowFor_eq_some.1 hrow).1
  exact decode_encode_of_build hr (opRows_patterns r hr).1 hb rest

/-- Format I, format L, and NOTE and SLOT where they are the only operand. -/
theorem decode_encode_of_one_operand {n : Nat} (hi lo : Nat) (hhi : hi < 32) (hn : n < 2 ^ (hi + 1 - lo))
    (hp : fieldMask 23 0 &&& fieldMask hi lo = fieldMask hi lo) (hm : fieldMask hi lo &&& r.mask = 0#32)
    (hb : ∀ w, fieldOf w hi lo = n → r.build w ((encode i).getD 1 0#32) = i) :
    decode (encode i ++ rest) = .command i rest := by
  have hr := (rowFor_eq_some.1 hrow).1
  refine decode_encode_of_build hr (w := r.pattern ||| place n lo) ?_ (hb _ ?_) rest
  · rw [or_and_of_apart _ (place_and_eq_zero hhi hn hm), (opRows_patterns r hr).1]
  · refine fieldOf_eq_of_and hhi hn ?_
    rw [BitVec.and_or_distrib_right, row_pattern_and hrow hp, BitVec.zero_or]

theorem decode_encode_formatS (slot : Fin 128) (alt : Bool) (hm8 : fieldMask 8 8 &&& r.mask = 0#32)
    (hm6 : fieldMask 6 0 &&& r.mask = 0#32)
    (hb : ∀ w, slotOf w = slot → altOf w = alt → r.build w ((encode i).getD 1 0#32) = i) :
    decode (encode i ++ rest) = .command i rest := by
  have hr := (rowFor_eq_some.1 hrow).1
  have hs {m : Word} (h : fieldMask 6 0 &&& m = 0#32) : place slot 0 &&& m = 0#32 := place_and_eq_zero (by decide) slot.isLt h
  have ha {m : Word} (h : fieldMask 8 8 &&& m = 0#32) : place alt.toNat 8 &&& m = 0#32 :=
    place_and_eq_zero (by decide) alt.toNat_lt h
  refine decode_encode_of_build hr (w := formatS r.pattern slot alt) ?_ (hb _ (slotOf_eq ?_) (altOf_eq ?_)) rest
  · rw [formatS, or_and_of_apart _ (hs hm6), or_and_of_apart _ (ha hm8), (opRows_patterns r hr).1]
  · refine fieldOf_eq_of_and (by decide) slot.isLt ?_
    rw [formatS, BitVec.and_or_distrib_right, or_and_of_apart _ (ha (by decide)), row_pattern_and hrow (by decide),
      BitVec.zero_or]
  · refine fieldOf_eq_of_and (by decide) alt.toNat_lt ?_
    rw [formatS, or_and_of_apart _ (hs (by decide)), BitVec.and_or_distrib_right, row_pattern_and hrow (by decide),
      BitVec.zero_or]

theorem decode_encode_formatN (ch : Fin 16) (note vel : Fin 128) (hm16 : fieldMask 19 16 &&& r.mask = 0#32)
    (hm8 : fieldMask 14 8 &&& r.mask = 0#32) (hm0 : fieldMask 6 0 &&& r.mask = 0#32)
    (hb : ∀ w, chOf w = ch → noteOf w = note → velOf w = vel → r.build w ((encode i).getD 1 0#32) = i) :
    decode (encode i ++ rest) = .command i rest := by
  have hr := (rowFor_eq_some.1 hrow).1
  have hc {m : Word} (h : fieldMask 19 16 &&& m = 0#32) : place ch 16 &&& m = 0#32 := place_and_eq_zero (by decide) ch.isLt h
  have hn {m : Word} (h : fieldMask 14 8 &&& m = 0#32) : place note 8 &&& m = 0#32 := place_and_eq_zero (by decide) note.isLt h
  have hv {m : Word} (h : fieldMask 6 0 &&& m = 0#32) : place vel 0 &&& m = 0#32 := place_and_eq_zero (by decide) vel.isLt h
  refine decode_encode_of_build hr (w := formatN r.pattern ch note vel) ?_ (hb _ (Fin.ext ?_) (noteOf_eq ?_) (Fin.ext ?_)) rest
  · rw [formatN, or_and_of_apart _ (hv hm0), or_and_of_apart _ (hn hm8), or_and_of_apart _ (hc hm16), (opRows_patterns r hr).1]
  · rw [val_chOf]
    refine fieldOf_eq_of_and (by decide) ch.isLt ?_
    rw [formatN, or_and_of_apart _ (hv (by decide)), or_and_of_apart _ (hn (by decide)), BitVec.and_or_distrib_right,
      row_pattern_and hrow (by decide), BitVec.zero_or]
  · refine fieldOf_eq_of_and (by decide) note.isLt ?_
    rw [formatN, or_and_of_apart _ (hv (by decide)), BitVec.and_or_distrib_right, or_and_of_apart _ (hc (by decide)),
      row_pattern_and hrow (by decide), BitVec.zero_or]
  · rw [val_velOf]
    refine fieldOf_eq_of_and (by decide) vel.isLt ?_
    rw [formatN, BitVec.and_or_distrib_right, or_and_of_apart _ (hn (by decide)), or_and_of_apart _ (hc (by decide)),
      row_pattern_and hrow (by decide), BitVec.zero_or]

/-- ARG is 0 in the rows that reserve it, and in LOSS_SETTYPE's its two upper bits are. -/
theorem decode_encode_formatV {arg fam : Nat} (v : Fin 8) (ha : arg < 2 ^ 3) (hf : famFits fam = true)
    (harg : place arg 8 &&& r.mask = 0#32) (hfam : fieldMask 5 4 &&& r.mask = 0#32) (hvoice : fieldMask 2 0 &&& r.mask = 0#32)
    (hb : ∀ w, stagesOf w = arg → famOf w = fam → voiceOf w = v → r.build w ((encode i).getD 1 0#32) = i) :
    decode (encode i ++ rest) = .command i rest := by
  have hr := (rowFor_eq_some.1 hrow).1
  have ha' {m : Word} (h : fieldMask 10 8 &&& m = 0#32) : place arg 8 &&& m = 0#32 := place_and_eq_zero (by decide) ha h
  have hf' {m : Word} (h : fieldMask 5 4 &&& m = 0#32) : place fam 4 &&& m = 0#32 :=
    place_and_eq_zero (by decide) (fam_lt hf) h
  have hv' {m : Word} (h : fieldMask 2 0 &&& m = 0#32) : place v 0 &&& m = 0#32 := place_and_eq_zero (by decide) v.isLt h
  refine decode_encode_of_build hr (w := formatV r.pattern arg fam v) ?_ (hb _ ?_ ?_ (Fin.ext ?_)) rest
  · rw [formatV, or_and_of_apart _ (hv' hvoice), or_and_of_apart _ (hf' hfam), or_and_of_apart _ harg, (opRows_patterns r hr).1]
  · refine fieldOf_eq_of_and (by decide) ha ?_
    rw [formatV, or_and_of_apart _ (hv' (by decide)), or_and_of_apart _ (hf' (by decide)), BitVec.and_or_distrib_right,
      row_pattern_and hrow (by decide), BitVec.zero_or]
  · refine fieldOf_eq_of_and (by decide) (fam_lt hf) ?_
    rw [formatV, or_and_of_apart _ (hv' (by decide)), BitVec.and_or_distrib_right, or_and_of_apart _ (ha' (by decide)),
      row_pattern_and hrow (by decide), BitVec.zero_or]
  · rw [val_voiceOf]
    refine fieldOf_eq_of_and (by decide) v.isLt ?_
    rw [formatV, BitVec.and_or_distrib_right, or_and_of_apart _ (hf' (by decide)), or_and_of_apart _ (ha' (by decide)),
      row_pattern_and hrow (by decide), BitVec.zero_or]

end

end Sys2Proof

open Sys2Proof Sys2Proof.Machine

/-- Settles O1: the format of the command's row makes a word that matches the row and holds the operands. -/
theorem decodeOfEncode : Obligations.DecodeOfEncode := by
  intro i rest h
  cases i
  case nop | forceStopAll | readStatus | clearStatus | engineStop | engineRun | allocGet =>
    exact decode_encode_formatZ rfl rest rfl
  case setInstrument =>
    exact decode_encode_of_one_operand rfl rest 1 0 (by decide) (fam_lt h) (by decide) (by decide) (by rintro _ rfl; rfl)
  case dlPush | dlGetLast | dlProcess | dlSetDelay | dlClear | allocRelease =>
    exact decode_encode_of_one_operand rfl rest 7 0 (by decide) (line_lt h) (by decide) (by decide) (by rintro _ rfl; rfl)
  case noteOff note =>
    refine decode_encode_of_one_operand rfl rest 14 8 (by decide) note.isLt (by decide) (by decide) fun w hw => ?_
    obtain rfl := noteOf_eq hw
    rfl
  case paramSet slot _ | paramReset slot | paramGet slot =>
    refine decode_encode_of_one_operand rfl rest 6 0 (by decide) slot.isLt (by decide) (by decide) fun w hw => ?_
    obtain rfl := slotOf_eq hw
    rfl
  case paramAdd slot alt _ =>
    exact decode_encode_formatS rfl rest slot alt (by decide) (by decide) (by rintro _ rfl rfl; rfl)
  case noteOn ch note vel =>
    exact decode_encode_formatN rfl rest ch note vel (by decide) (by decide) (by decide) (by rintro _ rfl rfl rfl; rfl)
  case lossSetType _ v ty =>
    exact decode_encode_formatV rfl rest v (Laws.HeaderFields.typeBit_lt ty) h (by cases ty <;> rfl) (by decide) (by decide)
      (by rintro _ hty rfl rfl; rw [← typeOf_eq hty])
  case dispSetStages _ v stages =>
    obtain ⟨hf, hs⟩ := Bool.and_eq_true_iff.1 h
    exact decode_encode_formatV rfl rest v (stages_lt hs) hf (place_and_eq_zero (hi := 10) (by decide) (stages_lt hs) (by decide))
      (by decide) (by decide) (by rintro _ rfl rfl rfl; rfl)
  case tfSetDelay v _ | tfProcess v _ | lossSetCutoff v _ | lossProcess v _ | lossPhaseDelay v _ | dispSetGD v _ |
      dispProcess v _ | dispPhaseDelay v _ | noiseSeed v _ | noiseNext v =>
    exact decode_encode_formatV (arg := 0) rfl rest v (by decide) h (by decide) (by decide) (by decide)
      (by rintro _ - rfl rfl; rfl)

end

section
/-! The HOST's step on what its port decodes to (30_encoding R313, R315, 60_exceptions R904), and the worked encodings. -/

namespace Sys2Proof.Machine

open Sys2Proof.Claims

/-- While a whole command waits, a HOST that is next, by the order of moves or by log 2's default, takes a HOST step. -/
theorem step_of_hostNext {s : State} {later : List Agent} (h : HostNext s later) (hd : decode s.port ≠ .waiting) :
    step s = ({ s with sched := later } : State).hostStep := by
  obtain h | ⟨h, rfl⟩ := h
  · exact step_of_sched h
  · have hagent : s.defaultAgent = .host := by
      unfold State.defaultAgent
      split
      · contradiction
      · rfl
    simp only [step, h, hagent]
    rw [← h]
    rfl

theorem step_of_command {s : State} {later : List Agent} {i : Instr} {rest : List Word} (h : HostNext s later)
    (hd : decode s.port = .command i rest) : step s = exec i { s with port := rest, sched := later } := by
  rw [step_of_hostNext h (by rw [hd]; nofun)]
  simp only [State.hostStep, hd]

theorem step_of_illegal {s : State} {later : List Agent} {why : Illegal} {rest : List Word} (h : HostNext s later)
    (hd : decode s.port = .illegal why rest) :
    step s = .next (refused { s with port := rest, sched := later } .illegalCmd) := by
  rw [step_of_hostNext h (by rw [hd]; nofun)]
  simp only [State.hostStep, hd]
  rfl

end Sys2Proof.Machine

open Sys2Proof Sys2Proof.Machine Sys2Proof.Claims

/-- Settles O6: no row matches a word of a reserved pair, and a word that no row matches decodes as illegal. -/
theorem illegalCommandsAreRefused : Obligations.IllegalCommandsAreRefused := by
  intro s later w0 p rest hnext
  have short (hno : ∀ r ∈ opRows, w0 &&& r.mask ≠ r.pattern) (hshort : ¬hasPayload (unitOf w0) (opOf w0))
      (hport : s.port = w0 :: rest) : step s = .next (refused { s with port := rest, sched := later } .illegalCmd) := by
    obtain ⟨why, hc⟩ := classify_of_no_match w0 0#32 rest hno
    exact step_of_illegal hnext (by rw [hport, decode_of_no_payload rest hshort, hc])
  refine ⟨fun hres => short (no_match_of_reserved hres) (not_hasPayload_of_reserved hres), short, fun hno hlong hport => ?_⟩
  obtain ⟨why, hc⟩ := classify_of_no_match w0 p rest hno
  exact step_of_illegal hnext (by rw [hport, decode_of_payload p rest hlong, hc])

/-- Settles O7: the HOST's step is `exec` of the command that its port decodes to. -/
theorem stepRunsTheDecodedCommand : Obligations.StepRunsTheDecodedCommand := by
  refine fun s i rest hd => ⟨fun later h => step_of_command (.inl h) hd, fun h => ?_⟩
  rw [step_of_command (.inr ⟨h, rfl⟩) hd, ← h]

/-- Settles O3: the decoder evaluated on the eight word sequences. -/
theorem workedEncodings : Obligations.WorkedEncodings := by
  unfold Obligations.WorkedEncodings
  decide

end

section
/-! Command classes and the mode gate (30_encoding R310, 60_exceptions R902). -/

namespace Sys2Proof

open Sys2Proof.Claims

/-- A row's command is diagnostic iff the row's UNIT is 2 or more. -/
theorem opRows_isDiagnostic : ∀ r ∈ opRows, ∀ w p, (r.build w p).isDiagnostic = decide (2 ≤ r.unit) := by
  simp [opRows, engineRows, paramRows, delayRows, filterRows, Instr.isDiagnostic]

namespace Machine

/-! ### Checks: what holds of the passing states and of the refusal holds of the answer -/

section
variable {P : State → Prop} {s : State} (hrej : P (s.reject .illegalArg))
include hrej

theorem onLine_induction {l : Nat} {pass : State} (h : P pass) : P (s.onLine l pass) := by
  obtain ⟨-, e⟩ | ⟨-, e⟩ := s.onLine_cases l pass
  · rwa [e]
  · rwa [e]

theorem onFamily_induction {n : Nat} {pass : Family → State} (h : ∀ f, P (pass f)) : P (s.onFamily n pass) := by
  obtain ⟨f, -, e⟩ | ⟨-, e⟩ := s.onFamily_cases n pass
  · rw [e]
    exact h f
  · rwa [e]

theorem onStringFamily_induction {n : Nat} {pass : State} (h : P pass) : P (s.onStringFamily n pass) := by
  obtain ⟨-, e⟩ | ⟨-, e⟩ := s.onStringFamily_cases n pass
  · rwa [e]
  · rwa [e]

theorem onSlot_induction {slot : Fin 128} {pass : Config.ParamRow → State} (h : ∀ row, P (pass row)) :
    P (s.onSlot slot pass) := by
  obtain ⟨row, -, e⟩ | ⟨-, e⟩ := s.onSlot_cases slot pass
  · rw [e]
    exact h row
  · rwa [e]

end

/-! ### The mode gate -/

/-- A diagnostic command stands behind the mode gate, and what it does there is refused for its operands or accepted. -/
theorem exec_diagnostic {i : Instr} (s : State) (h : i.isDiagnostic = true) :
    ∃ pass, exec i s = .next (s.diagnostic pass) ∧ pass.lastErr ≠ .illegalState := by
  cases i
  case nop | noteOn | noteOff | setInstrument | forceStopAll | readStatus | clearStatus | engineStop | engineRun | paramSet |
      paramAdd | paramReset | paramGet => exact absurd h nofun
  all_goals refine ⟨_, rfl, ?_⟩
  case allocGet => exact nofun
  case dlPush | dlGetLast | dlProcess | dlSetDelay | dlClear =>
    exact onLine_induction (P := (·.lastErr ≠ .illegalState)) nofun nofun
  case allocRelease =>
    refine onLine_induction (P := (·.lastErr ≠ .illegalState)) nofun ?_
    split <;> exact nofun
  case tfSetDelay | tfProcess | lossSetCutoff | lossProcess | lossPhaseDelay | dispSetGD | dispProcess | dispPhaseDelay =>
    exact onFamily_induction (P := (·.lastErr ≠ .illegalState)) nofun fun _ => nofun
  case lossSetType | dispSetStages =>
    refine onFamily_induction (P := (·.lastErr ≠ .illegalState)) nofun fun _ => ?_
    split <;> exact nofun
  case noiseSeed | noiseNext => exact onStringFamily_induction (P := (·.lastErr ≠ .illegalState)) nofun nofun

/-! ### Control commands -/

/-- What a control command may change (20_memory R211), and its code. -/
def ControlOutcome (s t : State) : Prop :=
  t.lastErr ≠ .illegalState ∧ t =
    { s with
      raw := t.raw, dirty := t.dirty, req := t.req, instrReq := t.instrReq, fsaReq := t.fsaReq, stopReq := t.stopReq,
      mode := t.mode, allocFail := t.allocFail, cmdErr := t.cmdErr, lastErr := t.lastErr, result := t.result }

theorem exec_control {i : Instr} {s t : State} (h : i.isDiagnostic = false) (he : exec i s = .next t) :
    ControlOutcome s t := by
  have hrej : ControlOutcome s (s.reject .illegalArg) := ⟨nofun, rfl⟩
  cases i <;> simp only [exec] at he <;> injection he with he <;> subst he
  case nop | noteOn | noteOff | forceStopAll | readStatus | clearStatus | engineStop | engineRun => exact ⟨nofun, rfl⟩
  case setInstrument => exact onFamily_induction hrej fun _ => ⟨nofun, rfl⟩
  case paramSet | paramAdd | paramReset | paramGet => exact onSlot_induction hrej fun _ => ⟨nofun, rfl⟩
  all_goals exact absurd h nofun

end Machine
end Sys2Proof

open Sys2Proof Sys2Proof.Machine Sys2Proof.Claims

/-- Settles O10: every diagnostic command stands behind the mode gate, and every control command has the frame of R211. -/
theorem modeGateAndCommandClasses : Obligations.ModeGateAndCommandClasses := by
  refine fun i s => ⟨fun hwf w ws he => ?_, fun hd hrun => ?_, fun hmode t ht => ?_, fun hc t ht => (exec_control hc ht).2⟩
  · obtain ⟨r, hr, u, p, hm, rfl, -⟩ := eq_words_of_decode (decodeOfEncode i [] hwf)
    obtain ⟨-, henc⟩ := opRows_faithful r hr u p hm
    obtain rfl : w = u := by simpa [he, OpRow.head?_words] using congrArg List.head? henc
    rw [opRows_isDiagnostic r hr, (header_of_match hr hm).1, decide_eq_true_iff]
  · obtain ⟨pass, he, -⟩ := exec_diagnostic s hd
    rw [he, State.diagnostic_run hrun]
    rfl
  · cases hd : i.isDiagnostic with
    | false => exact (exec_control hd ht).1
    | true =>
      obtain ⟨pass, he, hpass⟩ := exec_diagnostic s hd
      rw [he, State.diagnostic_stop (hmode hd)] at ht
      injection ht with ht
      rwa [← ht]

end

section
/-! What Checkout and Release of a family do to the stack, the owners and every line reference (41_delay_alloc R420–R423):
one step first, then a list of (voice, slot) pairs in order, of which Checkout and Release are instances. -/

namespace Sys2Proof.Machine

open Sys2Proof.Claims

/-! ### One step -/

namespace Allocator

theorem pop_fst (a : Allocator) (o : Owner) : (a.pop o).1 = a.avail.head? := by
  obtain ⟨ha, hp⟩ | ⟨l, rest, ha, hp⟩ := a.pop_cases o <;> rw [hp, ha] <;> rfl

theorem pop_avail (a : Allocator) (o : Owner) : (a.pop o).2.avail = a.avail.tail := by
  obtain ⟨ha, hp⟩ | ⟨l, rest, ha, hp⟩ := a.pop_cases o <;> simp [hp, ha]

theorem pop_owner (a : Allocator) (o : Owner) : (a.pop o).2.owner = a.avail.head?.elim a.owner (a.owner.set · o) := by
  obtain ⟨ha, hp⟩ | ⟨l, rest, ha, hp⟩ := a.pop_cases o <;> simp [hp, ha]

end Allocator

/-- Line k of voice v. -/
def Holding.ref (h : Holding) (vk : Fin 8 × Fin 2) : Option Nat := h.bank[vk.1].line vk.2

section
variable (f : Family) (h : Holding) (vk : Fin 8 × Fin 2)

theorem checkoutOne_avail : (checkoutOne f h vk).alloc.avail = h.alloc.avail.tail := Allocator.pop_avail _ _

theorem checkoutOne_owner : (checkoutOne f h vk).alloc.owner =
    h.alloc.avail.head?.elim h.alloc.owner (h.alloc.owner.set · (.voice f vk.1 vk.2)) := Allocator.pop_owner _ _

theorem checkoutOne_allocFail : (checkoutOne f h vk).allocFail = (h.allocFail || h.alloc.avail.head?.isNone) := by
  rw [← Allocator.pop_fst h.alloc (.voice f vk.1 vk.2)]
  rfl

theorem checkoutOne_ref_same : (checkoutOne f h vk).ref vk = h.alloc.avail.head? :=
  (bank_line_set_same ..).trans (Allocator.pop_fst _ _)

theorem checkoutOne_ref_other {uj : Fin 8 × Fin 2} (hne : uj ≠ vk) : (checkoutOne f h vk).ref uj = h.ref uj :=
  bank_line_set_other _ _ hne

theorem releaseOne_alloc : (releaseOne h vk).alloc = (h.ref vk).elim h.alloc h.alloc.pushAvail := by
  unfold releaseOne Holding.ref
  cases h.bank[vk.1].line vk.2 <;> rfl

theorem releaseOne_ref_same : (releaseOne h vk).ref vk = none := bank_line_set_same ..

theorem releaseOne_ref_other {uj : Fin 8 × Fin 2} (hne : uj ≠ vk) : (releaseOne h vk).ref uj = h.ref uj :=
  bank_line_set_other _ _ hne

end

/-! ### Checkout of a list of (voice, slot) pairs -/

section
variable (f : Family) (ks : List (Fin 8 × Fin 2)) (h : Holding)

theorem checkoutAll_avail : (ks.foldl (checkoutOne f) h).alloc.avail = h.alloc.avail.drop ks.length := by
  induction ks generalizing h with
  | nil => rfl
  | cons k ks ih => rw [List.foldl_cons, ih, checkoutOne_avail, List.drop_tail, List.length_cons]

theorem checkoutAll_allocFail :
    (ks.foldl (checkoutOne f) h).allocFail = (h.allocFail || decide (h.alloc.avail.length < ks.length)) := by
  induction ks generalizing h with
  | nil => simp
  | cons k ks ih =>
    rw [List.foldl_cons, ih, checkoutOne_allocFail, checkoutOne_avail]
    cases h.alloc.avail with
    | nil => simp
    | cons l rest =>
      change (h.allocFail || false || decide (rest.length < ks.length)) = _
      rw [Bool.or_false]
      exact congrArg _ (decide_eq_decide.2 Nat.succ_lt_succ_iff.symm)

theorem checkoutAll_ref_other {vk : Fin 8 × Fin 2} (hvk : vk ∉ ks) : (ks.foldl (checkoutOne f) h).ref vk = h.ref vk := by
  induction ks generalizing h with
  | nil => rfl
  | cons k ks ih =>
    rw [List.mem_cons, not_or] at hvk
    rw [List.foldl_cons, ih _ hvk.2, checkoutOne_ref_other _ _ _ hvk.1]

/-- The i-th pair gets the i-th line of the stack, or NONE past its end. -/
theorem checkoutAll_ref (hks : ks.Nodup) {i : Nat} {vk : Fin 8 × Fin 2} (hi : ks[i]? = some vk) :
    (ks.foldl (checkoutOne f) h).ref vk = h.alloc.avail[i]? := by
  induction ks generalizing h i with
  | nil => cases hi
  | cons k ks ih =>
    rw [List.nodup_cons] at hks
    rw [List.foldl_cons]
    cases i with
    | zero =>
      obtain rfl : k = vk := by simpa using hi
      rw [checkoutAll_ref_other f ks _ hks.1, checkoutOne_ref_same, List.head?_eq_getElem?]
    | succ i => rw [ih _ hks.2 hi, checkoutOne_avail, List.getElem?_tail]

theorem checkoutAll_owner_other {l : Nat} (hl : l ∉ h.alloc.avail.take ks.length) :
    (ks.foldl (checkoutOne f) h).alloc.owner[l]? = h.alloc.owner[l]? := by
  induction ks generalizing h with
  | nil => rfl
  | cons k ks ih =>
    rw [List.foldl_cons]
    cases ha : h.alloc.avail with
    | nil => rw [ih] <;> simp [checkoutOne_avail, checkoutOne_owner, ha]
    | cons a rest =>
      rw [ha, List.length_cons, List.take_succ_cons, List.mem_cons, not_or] at hl
      rw [ih]
      · simp [checkoutOne_owner, ha, List.getElem?_set_ne (Ne.symm hl.1)]
      · simpa [checkoutOne_avail, ha] using hl.2

/-- Of a stack of different lines, the i-th line goes to the i-th pair. -/
theorem checkoutAll_owner (hn : h.alloc.avail.Nodup) (hb : ∀ l ∈ h.alloc.avail, l < h.alloc.owner.length) {i : Nat}
    {vk : Fin 8 × Fin 2} (hi : ks[i]? = some vk) {l : Nat} (hl : h.alloc.avail[i]? = some l) :
    (ks.foldl (checkoutOne f) h).alloc.owner[l]? = some (.voice f vk.1 vk.2) := by
  induction ks generalizing h i with
  | nil => cases hi
  | cons k ks ih =>
    rw [List.foldl_cons]
    cases ha : h.alloc.avail with
    | nil => simp [ha] at hl
    | cons a rest =>
      rw [ha] at hn hb hl
      obtain ⟨hnotin, hn⟩ := List.nodup_cons.1 hn
      obtain ⟨hbound, hb⟩ := List.forall_mem_cons.1 hb
      cases i with
      | zero =>
        obtain rfl : k = vk := by simpa using hi
        obtain rfl : a = l := by simpa using hl
        rw [checkoutAll_owner_other]
        · simp [checkoutOne_owner, ha, hbound]
        · simp only [checkoutOne_avail, ha, List.tail_cons]
          exact fun hm => hnotin (List.mem_of_mem_take hm)
      | succ i =>
        refine ih _ ?_ ?_ hi ?_
        · simpa [checkoutOne_avail, ha] using hn
        · simpa [checkoutOne_avail, checkoutOne_owner, ha] using hb
        · simpa [checkoutOne_avail, ha] using hl

end

/-! ### Release of a list of (voice, slot) pairs, the last one first -/

section
variable (ks : List (Fin 8 × Fin 2)) (h : Holding)

/-- The pairs of a list released, the last one first. -/
def releaseAll : Holding := ks.foldr (fun vk h => releaseOne h vk) h

theorem releaseAll_ref_other {vk : Fin 8 × Fin 2} (hvk : vk ∉ ks) : (releaseAll ks h).ref vk = h.ref vk := by
  induction ks with
  | nil => rfl
  | cons k ks ih =>
    rw [List.mem_cons, not_or] at hvk
    exact (releaseOne_ref_other _ _ hvk.1).trans (ih hvk.2)

theorem releaseAll_ref {vk : Fin 8 × Fin 2} (hvk : vk ∈ ks) : (releaseAll ks h).ref vk = none := by
  induction ks with
  | nil => cases hvk
  | cons k ks ih =>
    by_cases hk : vk = k
    · rw [hk]
      exact releaseOne_ref_same _ _
    · exact (releaseOne_ref_other _ _ hk).trans (ih (List.mem_of_ne_of_mem hk hvk))

theorem releaseAll_allocFail : (releaseAll ks h).allocFail = h.allocFail := by
  induction ks with
  | nil => rfl
  | cons k ks ih => exact ih

/-- One more pair, before those of the list, still holds its line when it is released. -/
theorem releaseAll_cons_alloc {k : Fin 8 × Fin 2} (hk : k ∉ ks) :
    (releaseAll (k :: ks) h).alloc = (h.ref k).elim (releaseAll ks h).alloc (releaseAll ks h).alloc.pushAvail := by
  rw [← releaseAll_ref_other ks h hk]
  exact releaseOne_alloc _ _

theorem releaseAll_avail (hks : ks.Nodup) : (releaseAll ks h).alloc.avail = ks.filterMap h.ref ++ h.alloc.avail := by
  induction ks with
  | nil => rfl
  | cons k ks ih =>
    obtain ⟨hk, hks⟩ := List.nodup_cons.1 hks
    rw [releaseAll_cons_alloc ks h hk]
    cases hr : h.ref k with
    | none => simpa [hr] using ih hks
    | some l => simpa [hr, Allocator.pushAvail] using ih hks

/-- The held lines become FREE. -/
theorem releaseAll_owner (hks : ks.Nodup) (l : Nat) : (releaseAll ks h).alloc.owner[l]? =
    if l ∈ ks.filterMap h.ref then Function.const _ .free <$> h.alloc.owner[l]? else h.alloc.owner[l]? := by
  induction ks with
  | nil => rfl
  | cons k ks ih =>
    obtain ⟨hk, hks⟩ := List.nodup_cons.1 hks
    rw [releaseAll_cons_alloc ks h hk]
    cases hr : h.ref k with
    | none => simpa [hr] using ih hks
    | some m =>
      simp only [Option.elim_some, Allocator.pushAvail, List.getElem?_set', ih hks, List.filterMap_cons_some hr,
        List.mem_cons]
      by_cases hm : l = m
      · subst hm
        simp only [if_true, true_or]
        split <;> cases h.alloc.owner[l]? <;> rfl
      · simp only [hm, Ne.symm hm, if_false, false_or]

end

/-! ### The pairs of a family -/

theorem lineKeys_nodup (f : Family) : (lineKeys f).Nodup := by cases f <;> decide

theorem lineKeys_length (f : Family) : (lineKeys f).length = 8 * (lineSlots f).length := by cases f <;> rfl

theorem lineKeys_lineOrder {f : Family} {v : Fin 8} {k : Fin 2} (hk : k ∈ lineSlots f) :
    (lineKeys f)[lineOrder f v k]? = some (v, k) := by
  cases f <;> revert v k <;> decide

theorem heldLines_eq (f : Family) (h : Holding) : heldLines f h.bank = (lineKeys f).filterMap h.ref := by
  have hvoices : allVoices = List.finRange 8 := by decide
  simp only [heldLines, lineKeys, hvoices, List.filterMap_flatMap, List.filterMap_map]
  rfl

theorem release_eq (f : Family) (h : Holding) : release f h = releaseAll (lineKeys f) h := List.foldl_reverse

/-- A list that takes its i-th element to the i-th of another, or to none past the end, takes all to the other's first. -/
theorem filterMap_eq_take {α β : Type} {g : α → Option β} {ks : List α} {xs : List β}
    (h : ∀ i (hi : i < ks.length), g ks[i] = xs[i]?) : ks.filterMap g = xs.take ks.length := by
  induction ks generalizing xs with
  | nil => simp
  | cons k ks ih =>
    have hk : g k = xs[0]? := h 0 (Nat.zero_lt_succ _)
    have htail : ks.filterMap g = xs.tail.take ks.length := ih fun i hi => by
      rw [List.getElem?_tail]
      exact h (i + 1) (Nat.succ_lt_succ hi)
    cases xs with
    | nil => simpa [hk] using htail
    | cons x xs => simpa [hk] using htail

/-! ### Checkout and Release -/

section
variable (f : Family) (h : Holding)

theorem checkout_avail : (checkout f h).alloc.avail = h.alloc.avail.drop (8 * (lineSlots f).length) := by
  rw [← lineKeys_length]
  exact checkoutAll_avail f _ h

theorem checkout_allocFail :
    (checkout f h).allocFail = (h.allocFail || decide (h.alloc.avail.length < 8 * (lineSlots f).length)) := by
  rw [← lineKeys_length]
  exact checkoutAll_allocFail f _ h

theorem checkout_ref {v : Fin 8} {k : Fin 2} (hk : k ∈ lineSlots f) :
    (checkout f h).ref (v, k) = h.alloc.avail[lineOrder f v k]? :=
  checkoutAll_ref f _ h (lineKeys_nodup f) (lineKeys_lineOrder hk)

theorem checkout_ref_other {v : Fin 8} {k : Fin 2} (hk : k ∉ lineSlots f) : (checkout f h).ref (v, k) = h.ref (v, k) :=
  checkoutAll_ref_other f _ h (mt mem_lineKeys.1 hk)

theorem checkout_owner (hn : h.alloc.avail.Nodup) (hb : ∀ l ∈ h.alloc.avail, l < h.alloc.owner.length) {v : Fin 8}
    {k : Fin 2} (hk : k ∈ lineSlots f) {l : Nat} (hl : h.alloc.avail[lineOrder f v k]? = some l) :
    (checkout f h).alloc.owner[l]? = some (.voice f v k) :=
  checkoutAll_owner f _ h hn hb (lineKeys_lineOrder hk) hl

theorem checkout_owner_other {l : Nat} (hl : l ∉ h.alloc.avail.take (8 * (lineSlots f).length)) :
    (checkout f h).alloc.owner[l]? = h.alloc.owner[l]? := by
  rw [← lineKeys_length] at hl
  exact checkoutAll_owner_other f _ h hl

theorem release_avail : (release f h).alloc.avail = heldLines f h.bank ++ h.alloc.avail := by
  rw [release_eq, releaseAll_avail _ h (lineKeys_nodup f), heldLines_eq]

theorem release_allocFail : (release f h).allocFail = h.allocFail := by rw [release_eq, releaseAll_allocFail]

theorem release_ref {v : Fin 8} {k : Fin 2} (hk : k ∈ lineSlots f) : (release f h).ref (v, k) = none := by
  rw [release_eq]
  exact releaseAll_ref _ h (mem_lineKeys.2 hk)

theorem release_ref_other {v : Fin 8} {k : Fin 2} (hk : k ∉ lineSlots f) : (release f h).ref (v, k) = h.ref (v, k) := by
  rw [release_eq]
  exact releaseAll_ref_other _ h (mt mem_lineKeys.1 hk)

theorem release_owner_held {l : Nat} (hl : l ∈ heldLines f h.bank) (hb : l < h.alloc.owner.length) :
    (release f h).alloc.owner[l]? = some .free := by
  rw [heldLines_eq] at hl
  rw [release_eq, releaseAll_owner _ h (lineKeys_nodup f), if_pos hl, List.getElem?_eq_getElem hb]
  rfl

theorem release_owner_other {l : Nat} (hl : l ∉ heldLines f h.bank) :
    (release f h).alloc.owner[l]? = h.alloc.owner[l]? := by
  rw [heldLines_eq] at hl
  rw [release_eq, releaseAll_owner _ h (lineKeys_nodup f), if_neg hl]

/-- What a family holds after its Checkout is the top of the stack before it. -/
theorem heldLines_checkout :
    heldLines f (checkout f h).bank = h.alloc.avail.take (8 * (lineSlots f).length) := by
  rw [heldLines_eq, ← lineKeys_length]
  exact filterMap_eq_take fun i hi => checkoutAll_ref f _ h (lineKeys_nodup f) (List.getElem?_eq_getElem hi)

theorem release_checkout_avail : (release f (checkout f h)).alloc.avail = h.alloc.avail := by
  rw [release_avail, heldLines_checkout, checkout_avail, List.take_append_drop]

end

/-! ### The instrument switch -/

/-- The line references after a switch: those of Checkout, of Release, and of the third family. -/
theorem switchTo_line {s : State} {r : Family} (hr : r ≠ s.active) (f : Family) (v : Fin 8) (k : Fin 2) :
    ((s.switchTo r).voice f v).line k =
      if f = r then (switchCheckout s r).ref (v, k)
      else if f = s.active then (switchRelease s).ref (v, k) else (s.voice f v).line k := by
  rw [switchTo_other hr]
  unfold State.voice
  by_cases hfr : f = r
  · rw [if_pos hfr, hfr, PerFamily.get_set_same]
    rfl
  rw [if_neg hfr, PerFamily.get_set_other _ _ hfr]
  by_cases hfa : f = s.active
  · rw [if_pos hfa, hfa, PerFamily.get_set_same]
    rfl
  · rw [if_neg hfa, PerFamily.get_set_other _ _ hfa]

end Sys2Proof.Machine

open Sys2Proof Sys2Proof.Machine Sys2Proof.Claims

/-- Settles O29: Checkout and Release are their steps over the family's (voice, slot) pairs, in order and in reverse. -/
theorem releaseUndoesCheckout : Obligations.ReleaseUndoesCheckout := by
  intro f h
  refine ⟨⟨checkout_avail f h, checkout_allocFail f h, fun v => ?_, fun hn hb => ?_⟩,
    ⟨release_avail f h, release_allocFail f h, fun v => ?_, fun l hl hb => release_owner_held f h hl hb,
      fun l hl => release_owner_other f h hl⟩, release_checkout_avail f h⟩
  · exact ⟨checkout_sameButLines f h v, fun k hk => checkout_ref f h hk, fun k hk => checkout_ref_other f h hk⟩
  · exact ⟨fun v k hk l hl => checkout_owner f h hn hb hk hl, fun l hl => checkout_owner_other f h hl⟩
  · exact ⟨release_sameButLines f h v, fun k hk => release_ref f h hk, fun k hk => release_ref_other f h hk⟩

end

section
/-! What a step of any agent can do to the delay lines and to who holds them. All but four things that happen are line
work: the allocator, ACTIVE and the voices' line references stay, and only lines of the pool are written. A predicate that
line work, ALLOC_GET, ALLOC_RELEASE, the instrument switch and the reset keep is kept by every step
(`LineInvariant.step`). -/

namespace Sys2Proof.Machine

/-! ### Line work -/

/-- No line changes hands, and while every line reference lies in the pool, a sound pool stays sound. -/
structure LineWork (s t : State) : Prop where
  cfg : t.cfg = s.cfg
  alloc : t.alloc = s.alloc
  active : t.active = s.active
  lines : ∀ f v k, (t.voice f v).line k = (s.voice f v).line k
  sound : (∀ f v, (s.voice f v).LinesBelow s.nLines) → s.delay.Sound s.cap s.nLines → t.delay.Sound s.cap s.nLines

theorem lineWork_of_frame {s t : State} (hc : t.cfg = s.cfg) (ha : t.alloc = s.alloc) (hf : t.active = s.active)
    (hv : t.voices = s.voices) (hd : t.delay = s.delay) : LineWork s t :=
  ⟨hc, ha, hf, fun _ _ _ => by rw [State.voice, hv, State.voice], fun _ h => hd ▸ h⟩

theorem LineWork.refl (s : State) : LineWork s s := lineWork_of_frame rfl rfl rfl rfl rfl

section
variable {s t : State} (h : LineWork s t)
include h

theorem LineWork.cap : t.cap = s.cap := congrArg (·.val.cap) h.cfg

theorem LineWork.nLines : t.nLines = s.nLines := congrArg (·.val.nLines) h.cfg

theorem LineWork.linesBelow {f : Family} {v : Fin 8} (hv : (s.voice f v).LinesBelow s.nLines) :
    (t.voice f v).LinesBelow t.nLines :=
  fun k l hl => h.nLines ▸ hv k l (h.lines f v k ▸ hl)

theorem LineWork.trans {u : State} (g : LineWork t u) : LineWork s u where
  cfg := g.cfg.trans h.cfg
  alloc := g.alloc.trans h.alloc
  active := g.active.trans h.active
  lines f v k := (g.lines f v k).trans (h.lines f v k)
  sound hb hd := by
    have ht := h.sound hb hd
    rw [← h.cap, ← h.nLines] at ht ⊢
    exact g.sound (fun f v => h.linesBelow (hb f v)) ht

end

/-- A fold of line work is line work. -/
theorem lineWork_foldl {α : Type} {op : State → α → State} (h : ∀ s a, LineWork s (op s a)) (l : List α) (s : State) :
    LineWork s (l.foldl op s) :=
  List.foldlRecOn l op (motive := LineWork s) (.refl s) fun t ht a _ => ht.trans (h t a)

/-- Work on one voice that keeps its line references, and writes no line but those. -/
theorem lineWork_setVoice {s : State} {f : Family} {v : Fin 8} {W : Voice} {d : DelayPool}
    (hW : ∀ k, W.line k = (s.voice f v).line k)
    (hd : (s.voice f v).LinesBelow s.nLines → s.delay.Sound s.cap s.nLines → d.Sound s.cap s.nLines) :
    LineWork s { s.setVoice f v W with delay := d } where
  cfg := rfl
  alloc := rfl
  active := rfl
  lines g u k := by
    change ((s.setVoice f v W).voice g u).line k = _
    by_cases h : g = f ∧ u = v
    · obtain ⟨rfl, rfl⟩ := h
      rw [State.voice_setVoice_same, hW]
    · rw [State.voice_setVoice_other _ _ h]
  sound hb hs := hd (hb f v) hs

theorem lineWork_mapVoices (s : State) (f : Family) {g : Voice → Voice} (hg : ∀ V k, (g V).line k = V.line k) :
    LineWork s (s.mapVoices f g) where
  cfg := rfl
  alloc := rfl
  active := rfl
  lines f' v k := by
    by_cases h : f' = f
    · rw [h, State.voice_mapVoices_same, hg]
    · rw [State.voice_mapVoices_other _ _ _ h]
  sound _ hs := hs

/-! ### What is line work -/

theorem startVoice_lineWork (s : State) (f : Family) (v : Fin 8) (ch : Fin 16) (note vel : Fin 128) :
    LineWork s (s.startVoice f v ch note vel) :=
  have ⟨hkeeps, hsound⟩ := voiceNoteOn_keeps s.voiceEnv f ch note vel (s.voice f v) s.delay
  lineWork_setVoice hkeeps.line (hsound s.nLines)

theorem setPool_lineWork (s : State) (f : Family) (P : PolySynth) : LineWork s (s.setPool f P) :=
  lineWork_of_frame rfl rfl rfl rfl rfl

theorem psNoteOn_lineWork (s : State) (f : Family) (ch : Fin 16) (note vel : Fin 128) :
    LineWork s (s.psNoteOn f ch note vel) := by
  unfold State.psNoteOn
  dsimp only
  split
  · exact (setPool_lineWork s f _).trans (startVoice_lineWork _ f _ ch note vel)
  · exact (setPool_lineWork s f _).trans (startVoice_lineWork _ f _ ch note vel)

theorem psNoteOff_lineWork (s : State) (f : Family) (note : Fin 128) : LineWork s (s.psNoteOff f note) := by
  refine lineWork_foldl (fun t v => ?_) _ s
  unfold State.psNoteOffOne
  split
  · exact lineWork_setVoice (fun _ => rfl) fun _ hd => hd
  · exact .refl t

theorem psForceStopAll_lineWork (s : State) (f : Family) : LineWork s (s.psForceStopAll f) :=
  (setPool_lineWork s f emptyPool).trans (lineWork_mapVoices _ f fun _ _ => rfl)

theorem applyNote_lineWork (Q : Vector NoteReq 128) (s : State) (note : Fin 128) : LineWork s (s.applyNote Q note) := by
  unfold State.applyNote
  split
  · exact psNoteOn_lineWork s _ _ note _
  · exact psNoteOff_lineWork s _ note
  · exact .refl s

theorem applyForceStop_lineWork (s : State) : LineWork s s.applyForceStop := by
  unfold State.applyForceStop
  split
  · have htake : LineWork s { s with fsaReq := false } := lineWork_of_frame rfl rfl rfl rfl rfl
    exact htake.trans (psForceStopAll_lineWork _ _)
  · exact .refl s

theorem renderVoice_lineWork (f : Family) (R : Rendering) (v : Fin 8) : LineWork R.state (renderVoice f R v).state :=
  have ⟨hkeeps, hsound⟩ := voiceBlock_keeps R.state.voiceEnv f (R.state.voice f v) R.state.delay
  lineWork_setVoice hkeeps.line (hsound R.state.nLines)

theorem renderVoices_lineWork (s : State) (f : Family) : LineWork s (s.renderVoices f).state :=
  List.foldlRecOn _ (renderVoice f) (motive := fun R => LineWork s R.state) (.refl s)
    fun R hR v _ => hR.trans (renderVoice_lineWork f R v)

theorem renderStep_lineWork (s : State) : LineWork s s.renderStep :=
  (renderVoices_lineWork s s.active).trans (lineWork_of_frame rfl rfl rfl rfl rfl)

theorem begin_lineWork (s : State) : LineWork s s.begin := by
  unfold State.begin
  split
  · exact lineWork_of_frame rfl rfl rfl rfl rfl
  · dsimp only
    split
    · exact lineWork_of_frame rfl rfl rfl rfl rfl
    · exact lineWork_of_frame rfl rfl rfl rfl rfl

theorem callbackEffect_lineWork (s : State) (row : Config.ParamRow) (lv : LiveVal) :
    LineWork s (s.callbackEffect row lv) := by
  unfold State.callbackEffect
  split
  · exact .refl s
  · exact lineWork_mapVoices s _ fun _ _ => rfl
  · exact lineWork_mapVoices s _ fun _ _ => rfl
  · exact lineWork_mapVoices s _ fun _ _ => rfl
  · cases row.fam <;> exact lineWork_of_frame rfl rfl rfl rfl rfl

theorem runCallback_lineWork (s : State) (slot : Fin 128) : LineWork s (s.runCallback slot) := by
  unfold State.runCallback
  split
  · exact .refl s
  · rename_i row _
    have hlive : LineWork s { s with live := s.live.set slot (liveOf row (s.rawAt slot)) } :=
      lineWork_of_frame rfl rfl rfl rfl rfl
    exact hlive.trans (callbackEffect_lineWork _ row _)

theorem callbackStep_lineWork (s : State) (slot : Fin 128) : LineWork s (s.callbackStep slot) := by
  have hsnap : LineWork s { s with snap := clearSlotBit s.snap slot } := lineWork_of_frame rfl rfl rfl rfl rfl
  exact (hsnap.trans (runCallback_lineWork _ slot)).trans (lineWork_of_frame rfl rfl rfl rfl rfl)

/-! ### Invariants of the lines -/

/-- What line work and the four other things that happen to lines keep. -/
structure LineInvariant (P : State → Prop) : Prop where
  work : ∀ {s t : State}, P s → LineWork s t → P t
  get : ∀ {s : State}, P s → P { s with alloc := (s.alloc.pop .host).2 }
  release : ∀ {s : State} {l : Nat}, l < s.nLines → s.alloc.ownerOf l = .host → P s →
    P { s with alloc := s.alloc.pushAvail l }
  switch : ∀ {s : State} {r : Family}, r ≠ s.active → P s → P (s.switchTo r)
  reset : ∀ cfg : Cfg, P (State.resetOf cfg)

section
variable {P : State → Prop} (hP : LineInvariant P)
include hP

theorem LineInvariant.command {s t : State} (h : CommandEffect s t) (hs : P s) : P t := by
  cases h with
  | control | param | read => exact hP.work hs (lineWork_of_frame rfl rfl rfl rfl rfl)
  | push _ x hl => exact hP.work hs ⟨rfl, rfl, rfl, fun _ _ _ => rfl, fun _ hd => hd.push hl x⟩
  | setDelay _ n hl => exact hP.work hs ⟨rfl, rfl, rfl, fun _ _ _ => rfl, fun _ hd => hd.setDelay hl n⟩
  | clear _ hl => exact hP.work hs ⟨rfl, rfl, rfl, fun _ _ _ => rfl, fun _ hd => hd.clear hl⟩
  | get => exact hP.get hs
  | release _ hl ho => exact hP.release hl ho hs
  | voice f v W hW =>
    have hlines : ∀ k, W.line k = (s.voice f v).line k := fun k => by
      rw [hW.same]
      rfl
    exact hP.work hs (lineWork_setVoice hlines fun _ hd => hd)

theorem LineInvariant.hostStep {s t : State} (h : s.hostStep = .next t) (hs : P s) : P t := by
  obtain rfl | ⟨rest, ⟨c, -, rfl⟩ | ⟨u, r, hu, rfl⟩⟩ := hostStep_cases h
  · exact hs
  · exact hP.work hs (lineWork_of_frame rfl rfl rfl rfl rfl)
  · have hport : P { s with port := rest } := hP.work hs (lineWork_of_frame rfl rfl rfl rfl rfl)
    exact hP.work (hP.command hu hport) (lineWork_of_frame rfl rfl rfl rfl rfl)

theorem LineInvariant.applyInstrument {s : State} (hs : P s) : P s.applyInstrument := by
  unfold State.applyInstrument
  split
  · have htake : P { s with instrReq := { s.instrReq with valid := false } } :=
      hP.work hs (lineWork_of_frame rfl rfl rfl rfl rfl)
    by_cases hr : s.instrReq.fam = s.active
    · rwa [hr, State.switchTo, if_pos rfl]
    · exact hP.switch hr htake
  · exact hs

theorem LineInvariant.applyStep {s : State} (hs : P s) : P s.applyStep := by
  have hstop := hP.work (hP.applyInstrument hs) (applyForceStop_lineWork _)
  have htake : P { s.applyInstrument.applyForceStop with req := Vector.replicate 128 .none } :=
    hP.work hstop (lineWork_of_frame rfl rfl rfl rfl rfl)
  have hnotes := hP.work htake (lineWork_foldl (applyNote_lineWork s.applyInstrument.applyForceStop.req) allSlots _)
  exact hP.work hnotes (lineWork_of_frame rfl rfl rfl rfl rfl)

theorem LineInvariant.engineStep {s : State} (hs : P s) : P s.engineStep := by
  unfold State.engineStep
  split
  case h_1 => exact hP.work hs (begin_lineWork s)
  case h_2 => exact hP.work hs (lineWork_of_frame rfl rfl rfl rfl rfl)
  case h_3 slot _ => exact hP.work hs (callbackStep_lineWork s slot)
  case h_4 => exact hP.applyStep hs
  case h_5 => exact hP.work hs (renderStep_lineWork s)

/-- An invariant of the lines is kept by every step of every agent. -/
theorem LineInvariant.step {s t : State} (h : step s = .next t) (hs : P s) : P t := by
  obtain ⟨sched, h⟩ := step_cases h
  have hsched : P { s with sched := sched } := hP.work hs (lineWork_of_frame rfl rfl rfl rfl rfl)
  obtain hhost | rfl | rfl := h
  · exact hP.hostStep hhost hsched
  · exact hP.engineStep hsched
  · exact hP.work (hP.reset s.cfg) (lineWork_of_frame rfl rfl rfl rfl rfl)

end

end Sys2Proof.Machine
end

section
/-! The delay memory and the bounds of lines (10_state R130, 41_delay_alloc R412). -/

namespace Sys2Proof.Machine

/-! ### Line references in Checkout and Release -/

/-- Available lines and the lines that the voices refer to lie below n. -/
structure Holding.Below (n : Nat) (h : Holding) : Prop where
  avail : ∀ l ∈ h.alloc.avail, l < n
  refs : ∀ v : Fin 8, h.bank[v].LinesBelow n

theorem Voice.LinesBelow.setLine {V : Voice} {n : Nat} (h : V.LinesBelow n) {k : Fin 2} {r : Option Nat}
    (hr : ∀ l, r = some l → l < n) : (V.setLine k r).LinesBelow n := by
  intro j l hl
  by_cases hj : j = k
  · rw [hj, Voice.setLine_line_same] at hl
    exact hr l hl
  · rw [Voice.setLine_line_other _ _ hj] at hl
    exact h j l hl

theorem bank_linesBelow_set {b : Bank} {n : Nat} (h : ∀ v : Fin 8, b[v].LinesBelow n) {v : Fin 8} {V : Voice}
    (hV : V.LinesBelow n) (u : Fin 8) : (b.set v V)[u].LinesBelow n := by
  by_cases hu : v.val = u.val
  · simpa only [Fin.getElem_fin, hu, Vector.getElem_set_self] using hV
  · simpa only [Fin.getElem_fin, Vector.getElem_set_ne _ _ hu] using h u

theorem Holding.Below.checkoutOne {n : Nat} {h : Holding} (hb : h.Below n) (f : Family) (vk : Fin 8 × Fin 2) :
    (checkoutOne f h vk).Below n := by
  obtain ⟨-, hp⟩ | ⟨l, rest, ha, hp⟩ := h.alloc.pop_cases (.voice f vk.1 vk.2)
  · simp only [Machine.checkoutOne, hp]
    exact ⟨hb.avail, bank_linesBelow_set hb.refs ((hb.refs vk.1).setLine nofun)⟩
  · simp only [Machine.checkoutOne, hp]
    have havail := ha ▸ hb.avail
    refine ⟨fun m hm => havail m (List.mem_cons_of_mem l hm), bank_linesBelow_set hb.refs ((hb.refs vk.1).setLine ?_)⟩
    rintro _ ⟨⟩
    exact havail l List.mem_cons_self

theorem Holding.Below.releaseOne {n : Nat} {h : Holding} (hb : h.Below n) (vk : Fin 8 × Fin 2) :
    (releaseOne h vk).Below n := by
  refine ⟨fun m hm => ?_, bank_linesBelow_set hb.refs ((hb.refs vk.1).setLine nofun)⟩
  unfold Machine.releaseOne at hm
  dsimp only at hm
  split at hm
  · rename_i l hl
    obtain rfl | hm := List.mem_cons.1 hm
    · exact hb.refs vk.1 vk.2 _ hl
    · exact hb.avail m hm
  · exact hb.avail m hm

theorem Holding.Below.checkout {n : Nat} {h : Holding} (hb : h.Below n) (f : Family) : (checkout f h).Below n :=
  checkout_induction f (fun _ vk _ hb => hb.checkoutOne f vk) hb

theorem Holding.Below.release {n : Nat} {h : Holding} (hb : h.Below n) (f : Family) : (release f h).Below n :=
  release_induction f (fun _ vk _ hb => hb.releaseOne vk) hb

/-! ### The invariant -/

/-- `LinesInBounds` with the canonical memory, by what uses it: the pool, the available lines and the voices. -/
structure LinesSound (s : State) : Prop where
  pool : s.delay.Sound s.cap s.nLines
  avail : ∀ l ∈ s.alloc.avail, l < s.nLines
  refs : ∀ f v, (s.voice f v).LinesBelow s.nLines

theorem linesSound_iff {s : State} : LinesSound s ↔ MemoryCanonical s ∧ LinesInBounds s :=
  ⟨fun ⟨⟨hcanonical, hlines, hcursors, hsamples⟩, havail, hrefs⟩ =>
      ⟨hcanonical, hlines, hcursors, hsamples, havail, hrefs⟩,
    fun ⟨hcanonical, hlines, hcursors, hsamples, havail, hrefs⟩ =>
      ⟨⟨hcanonical, hlines, hcursors, hsamples⟩, havail, hrefs⟩⟩

theorem LinesSound.switchTo {s : State} {r : Family} (hr : r ≠ s.active) (h : LinesSound s) :
    LinesSound (s.switchTo r) := by
  have hstop : Holding.Below s.nLines ⟨s.alloc, (s.psForceStopAll s.active).voices.get s.active, s.allocFail⟩ :=
    ⟨h.avail, fun v => (psForceStopAll_lineWork s s.active).linesBelow (h.refs s.active v)⟩
  have hrelease : (switchRelease s).Below s.nLines := hstop.release s.active
  have hstart : Holding.Below s.nLines ⟨(switchRelease s).alloc, s.voices.get r, (switchRelease s).allocFail⟩ :=
    ⟨hrelease.avail, h.refs r⟩
  have hcheckout : (switchCheckout s r).Below s.nLines := hstart.checkout r
  refine ⟨?_, ?_, fun f v k l hl => ?_⟩
  · rw [switchTo_other hr]
    exact h.pool
  · rw [switchTo_other hr]
    exact hcheckout.avail
  · have hn : (s.switchTo r).nLines = s.nLines := by rw [switchTo_other hr]; rfl
    rw [switchTo_line hr] at hl
    rw [hn]
    split at hl
    · exact hcheckout.refs v k l hl
    · split at hl
      · exact hrelease.refs v k l hl
      · exact h.refs f v k l hl

theorem resetVoice_line (p : Config.Params) (f : Family) (k : Fin 2) : (resetVoice p f).line k = none := by
  unfold Voice.line
  split <;> rfl

theorem linesSound_resetOf (cfg : Cfg) : LinesSound (State.resetOf cfg) := by
  have hreset (f : Family) (v : Fin 8) : (Vector.replicate 8 (resetVoice cfg.val f))[v].LinesBelow cfg.val.nLines := by
    intro k l hl
    simp [resetVoice_line] at hl
  have hstart : Holding.Below cfg.val.nLines
      ⟨resetAllocator cfg.val, Vector.replicate 8 (resetVoice cfg.val .string), false⟩ :=
    ⟨fun l hl => List.mem_range.1 hl, hreset .string⟩
  have hstring : (resetHolding cfg.val).Below cfg.val.nLines := hstart.checkout .string
  refine ⟨⟨Memory.wf_nil, List.length_replicate, fun x hx => ?_, nofun⟩, hstring.avail, fun f v => ?_⟩
  · rw [List.eq_of_mem_replicate hx]
    exact ⟨cap_pos cfg, cap_pos cfg⟩
  · cases f with
    | string => exact hstring.refs v
    | reed => exact hreset .reed v
    | bow => exact hreset .bow v

theorem linesSound_lineInvariant : LineInvariant LinesSound where
  work h hw := ⟨hw.nLines ▸ hw.cap ▸ hw.sound h.refs h.pool, hw.alloc ▸ hw.nLines ▸ h.avail,
    fun f v => hw.linesBelow (h.refs f v)⟩
  get {s} h := by
    refine ⟨h.pool, fun m hm => h.avail m ?_, h.refs⟩
    obtain ⟨-, hp⟩ | ⟨l, rest, ha, hp⟩ := s.alloc.pop_cases .host
    · simpa only [hp] using hm
    · rw [ha]
      exact List.mem_cons_of_mem l (by simpa only [hp] using hm)
  release hl _ h := ⟨h.pool, List.forall_mem_cons.2 ⟨hl, h.avail⟩, h.refs⟩
  switch hr h := h.switchTo hr
  reset := linesSound_resetOf

end Sys2Proof.Machine

open Sys2Proof Sys2Proof.Machine

/-- Settles O55: line work keeps the pool sound, and nothing that hands lines over invents one. -/
theorem stepKeepsDelayMemory : Obligations.StepKeepsDelayMemory :=
  fun _ _ hmemory hbounds h => linesSound_iff.1 (linesSound_lineInvariant.step h (linesSound_iff.2 ⟨hmemory, hbounds⟩))

end

section
/-! The allocator's invariant (41_delay_alloc R424, 20_memory R217): a line is in exactly one place, and each of Pop,
Push_avail and the steps of Checkout and Release moves one line from one place to another. -/

namespace Sys2Proof.Machine

/-! ### Owners and line references -/

/-- The parts of `AllocatorConsistent` on the stack, the owners and what each voice entry refers to. -/
structure Allocator.Consistent (n : Nat) (a : Allocator) (ref : Family → Fin 8 → Fin 2 → Option Nat) : Prop where
  owners : a.owner.length = n
  nodup : a.avail.Nodup
  availLines : ∀ l ∈ a.avail, l < n
  freeIff : ∀ l, l < n → (a.ownerOf l = .free ↔ l ∈ a.avail)
  heldIff : ∀ l f v k, l < n → (a.ownerOf l = .voice f v k ↔ ref f v k = some l)
  refLines : ∀ f v k l, ref f v k = some l → l < n

theorem allocatorConsistent_iff {s : State} : AllocatorConsistent s ↔
    s.alloc.Consistent s.nLines (fun f v k => (s.voice f v).line k) ∧
      (∀ f v k, f ≠ s.active → (s.voice f v).line k = none) ∧ ∀ f v k, k ∉ lineSlots f → (s.voice f v).line k = none :=
  ⟨fun ⟨howners, hnodup, havail, hfree, hheld, hrefs, hactive, hslots⟩ =>
      ⟨⟨howners, hnodup, havail, hfree, hheld, hrefs⟩, hactive, hslots⟩,
    fun ⟨⟨howners, hnodup, havail, hfree, hheld, hrefs⟩, hactive, hslots⟩ =>
      ⟨howners, hnodup, havail, hfree, hheld, hrefs, hactive, hslots⟩⟩

namespace Allocator

section
variable {n : Nat} {a : Allocator} {ref ref' : Family → Fin 8 → Fin 2 → Option Nat} (h : a.Consistent n ref)
include h

theorem Consistent.congr (hr : ∀ f v k, ref' f v k = ref f v k) : a.Consistent n ref' :=
  (funext fun f => funext fun v => funext fun k => hr f v k : ref' = ref) ▸ h

theorem Consistent.ne_of_avail {l m : Nat} {f : Family} {v : Fin 8} {k : Fin 2} (hl : l ∈ a.avail)
    (hm : ref f v k = some m) : m ≠ l := by
  rintro rfl
  have hn := h.availLines m hl
  exact absurd (((h.freeIff m hn).2 hl).symm.trans ((h.heldIff m f v k hn).2 hm)) nofun

/-- The top line goes to an owner that held none: the HOST, or a voice entry that was NONE. -/
theorem Consistent.pop {l : Nat} {rest : List Nat} {o : Owner} (ha : a.avail = l :: rest) (ho : o ≠ .free)
    (hnone : ∀ f v k, o = .voice f v k → ref f v k = none) (hset : ∀ f v k, o = .voice f v k → ref' f v k = some l)
    (hkeep : ∀ f v k, o ≠ .voice f v k → ref' f v k = ref f v k) : Consistent n ⟨rest, a.owner.set l o⟩ ref' := by
  have hmem : l ∈ a.avail := ha ▸ List.mem_cons_self
  have hl := h.availLines l hmem
  obtain ⟨hnotin, hnodup⟩ := List.nodup_cons.1 (ha ▸ h.nodup)
  have hsame : (Allocator.mk rest (a.owner.set l o)).ownerOf l = o := ownerOf_set_same o (by rwa [h.owners])
  have hother {m : Nat} (hm : m ≠ l) : (Allocator.mk rest (a.owner.set l o)).ownerOf m = a.ownerOf m :=
    ownerOf_set_other o hm
  refine ⟨List.length_set.trans h.owners, hnodup, fun m hm => h.availLines m (ha ▸ List.mem_cons_of_mem l hm),
    fun m hm => ?_, fun m f v k hm => ?_, fun f v k m hm => ?_⟩
  · by_cases hml : m = l
    · subst hml
      exact ⟨fun e => absurd (hsame.symm.trans e) ho, fun e => absurd e hnotin⟩
    · rw [hother hml, h.freeIff m hm, ha, List.mem_cons]
      exact or_iff_right hml
  · by_cases hf : o = .voice f v k
    · rw [hset f v k hf]
      by_cases hml : m = l
      · subst hml
        exact ⟨fun _ => rfl, fun _ => hsame.trans hf⟩
      · rw [hother hml, h.heldIff m f v k hm, hnone f v k hf]
        exact ⟨nofun, fun e => absurd (Option.some.inj e).symm hml⟩
    · rw [hkeep f v k hf]
      by_cases hml : m = l
      · subst hml
        exact ⟨fun e => absurd (hsame.symm.trans e) hf, fun e => absurd rfl (h.ne_of_avail hmem e)⟩
      · rw [hother hml, h.heldIff m f v k hm]
  · by_cases hf : o = .voice f v k
    · rw [hset f v k hf] at hm
      exact Option.some.inj hm ▸ hl
    · rw [hkeep f v k hf] at hm
      exact h.refLines f v k m hm

/-- A line that is not available goes back, and a voice entry that held it is NONE. -/
theorem Consistent.pushAvail {l : Nat} (hl : l < n) (ho : a.ownerOf l ≠ .free)
    (hset : ∀ f v k, a.ownerOf l = .voice f v k → ref' f v k = none)
    (hkeep : ∀ f v k, a.ownerOf l ≠ .voice f v k → ref' f v k = ref f v k) : (a.pushAvail l).Consistent n ref' := by
  have hnotin : l ∉ a.avail := mt (h.freeIff l hl).2 ho
  have hsame : (a.pushAvail l).ownerOf l = .free := ownerOf_set_same _ (by rwa [h.owners])
  have hother {m : Nat} (hm : m ≠ l) : (a.pushAvail l).ownerOf m = a.ownerOf m := ownerOf_set_other _ hm
  refine ⟨List.length_set.trans h.owners, List.nodup_cons.2 ⟨hnotin, h.nodup⟩,
    List.forall_mem_cons.2 ⟨hl, h.availLines⟩, fun m hm => ?_, fun m f v k hm => ?_, fun f v k m hm => ?_⟩
  · by_cases hml : m = l
    · subst hml
      exact ⟨fun _ => List.mem_cons_self, fun _ => hsame⟩
    · rw [hother hml, h.freeIff m hm]
      exact (List.mem_cons.trans (or_iff_right hml)).symm
  · by_cases hf : a.ownerOf l = .voice f v k
    · rw [hset f v k hf]
      refine ⟨fun e => ?_, nofun⟩
      by_cases hml : m = l
      · subst hml
        exact absurd (hsame.symm.trans e) nofun
      · have hm' := (h.heldIff m f v k hm).1 ((hother hml).symm.trans e)
        exact absurd (Option.some.inj (hm'.symm.trans ((h.heldIff l f v k hl).1 hf))) hml
    · rw [hkeep f v k hf]
      by_cases hml : m = l
      · subst hml
        exact ⟨fun e => absurd (hsame.symm.trans e) nofun, fun e => absurd ((h.heldIff m f v k hl).2 e) hf⟩
      · rw [hother hml, h.heldIff m f v k hm]
  · by_cases hf : a.ownerOf l = .voice f v k
    · exact absurd ((hset f v k hf).symm.trans hm) nofun
    · exact h.refLines f v k m (hkeep f v k hf ▸ hm)

end

/-- At reset every line is available, in order. -/
theorem resetAllocator_consistent (p : Config.Params) : (resetAllocator p).Consistent p.nLines fun _ _ _ => none := by
  have hfree (l : Nat) : (resetAllocator p).ownerOf l = .free := by
    simp only [ownerOf, resetAllocator, List.getD_eq_getElem?_getD, List.getElem?_replicate]
    split <;> rfl
  refine ⟨List.length_replicate, List.nodup_range, fun l hl => List.mem_range.1 hl, fun l hl => ?_, fun l f v k _ => ?_,
    nofun⟩
  · exact ⟨fun _ => List.mem_range.2 hl, fun _ => hfree l⟩
  · rw [hfree]
    exact ⟨nofun, nofun⟩

end Allocator

/-! ### Checkout and Release -/

/-- The references of a holding's family, the other families holding no line. -/
def Holding.refs (f : Family) (h : Holding) (g : Family) (v : Fin 8) (k : Fin 2) : Option Nat :=
  if g = f then h.ref (v, k) else none

section
variable {n : Nat} {f : Family} {h : Holding}

theorem Holding.refs_same (v : Fin 8) (k : Fin 2) : h.refs f f v k = h.ref (v, k) := if_pos rfl

theorem Holding.refs_congr {g : Holding} {vk : Fin 8 × Fin 2} (hother : ∀ uj, uj ≠ vk → g.ref uj = h.ref uj) {f' : Family}
    {v : Fin 8} {k : Fin 2} (hne : ¬(f' = f ∧ (v, k) = vk)) : g.refs f f' v k = h.refs f f' v k := by
  unfold Holding.refs
  split
  · rename_i hf
    exact hother _ fun hvk => hne ⟨hf, hvk⟩
  · rfl

theorem checkoutOne_consistent (hc : h.alloc.Consistent n (h.refs f)) {vk : Fin 8 × Fin 2} (hnone : h.ref vk = none) :
    (checkoutOne f h vk).alloc.Consistent n ((checkoutOne f h vk).refs f) := by
  have hsame := checkoutOne_ref_same f h vk
  have hother {f' : Family} {v : Fin 8} {k : Fin 2} (hne : ¬(f' = f ∧ (v, k) = vk)) :
      (checkoutOne f h vk).refs f f' v k = h.refs f f' v k :=
    Holding.refs_congr (fun _ => checkoutOne_ref_other f h vk) hne
  obtain ⟨ha, hp⟩ | ⟨l, rest, ha, hp⟩ := h.alloc.pop_cases (.voice f vk.1 vk.2)
  · have halloc : (checkoutOne f h vk).alloc = h.alloc := congrArg Prod.snd hp
    rw [halloc]
    refine hc.congr fun f' v k => ?_
    by_cases hvk : f' = f ∧ (v, k) = vk
    · obtain ⟨rfl, rfl⟩ := hvk
      rw [Holding.refs_same, Holding.refs_same, hsame, hnone, ha]
      rfl
    · exact hother hvk
  · have halloc : (checkoutOne f h vk).alloc = ⟨rest, h.alloc.owner.set l (.voice f vk.1 vk.2)⟩ := congrArg Prod.snd hp
    rw [halloc]
    refine hc.pop ha nofun ?_ ?_ fun f' v k hne => hother ?_
    · rintro _ _ _ ⟨⟩
      exact (Holding.refs_same _ _).trans hnone
    · rintro _ _ _ ⟨⟩
      rw [Holding.refs_same, hsame, ha]
      rfl
    · rintro ⟨rfl, rfl⟩
      exact hne rfl

theorem checkoutAll_consistent {ks : List (Fin 8 × Fin 2)} (hks : ks.Nodup) (hc : h.alloc.Consistent n (h.refs f))
    (hnone : ∀ vk ∈ ks, h.ref vk = none) :
    (ks.foldl (checkoutOne f) h).alloc.Consistent n ((ks.foldl (checkoutOne f) h).refs f) := by
  induction ks generalizing h with
  | nil => exact hc
  | cons k ks ih =>
    obtain ⟨hk, hks⟩ := List.nodup_cons.1 hks
    obtain ⟨hnonek, hnone⟩ := List.forall_mem_cons.1 hnone
    refine ih hks (checkoutOne_consistent hc hnonek) fun vk hvk => ?_
    rw [checkoutOne_ref_other f h k (ne_of_mem_of_not_mem hvk hk)]
    exact hnone vk hvk

theorem releaseOne_consistent (hc : h.alloc.Consistent n (h.refs f)) (vk : Fin 8 × Fin 2) :
    (releaseOne h vk).alloc.Consistent n ((releaseOne h vk).refs f) := by
  have hsame := releaseOne_ref_same h vk
  have hother {f' : Family} {v : Fin 8} {k : Fin 2} (hne : ¬(f' = f ∧ (v, k) = vk)) :
      (releaseOne h vk).refs f f' v k = h.refs f f' v k :=
    Holding.refs_congr (fun _ => releaseOne_ref_other h vk) hne
  rw [releaseOne_alloc]
  cases hr : h.ref vk with
  | none =>
    refine hc.congr fun f' v k => ?_
    by_cases hvk : f' = f ∧ (v, k) = vk
    · obtain ⟨rfl, rfl⟩ := hvk
      rw [Holding.refs_same, Holding.refs_same, hsame, hr]
    · exact hother hvk
  | some l =>
    have hrefs : h.refs f f vk.1 vk.2 = some l := (Holding.refs_same _ _).trans hr
    have hl := hc.refLines _ _ _ _ hrefs
    have howner : h.alloc.ownerOf l = .voice f vk.1 vk.2 := (hc.heldIff _ _ _ _ hl).2 hrefs
    refine hc.pushAvail hl (by rw [howner]; nofun) ?_ fun f' v k hne => hother ?_
    · rw [howner]
      rintro _ _ _ ⟨⟩
      exact (Holding.refs_same _ _).trans hsame
    · rintro ⟨rfl, rfl⟩
      exact hne howner

theorem checkout_consistent (hc : h.alloc.Consistent n (h.refs f)) (hnone : ∀ vk, h.ref vk = none) :
    (checkout f h).alloc.Consistent n ((checkout f h).refs f) :=
  checkoutAll_consistent (lineKeys_nodup f) hc fun vk _ => hnone vk

theorem release_consistent (hc : h.alloc.Consistent n (h.refs f)) :
    (release f h).alloc.Consistent n ((release f h).refs f) :=
  release_induction f (P := fun h => h.alloc.Consistent n (h.refs f)) (fun _ vk _ hc => releaseOne_consistent hc vk) hc

end

/-! ### The invariant -/

/-- A family's holding with everything in it: the other families hold nothing. -/
theorem allocatorConsistent_of_holding {s : State} {h : Holding} (ha : s.alloc = h.alloc)
    (hc : h.alloc.Consistent s.nLines (h.refs s.active))
    (hrefs : ∀ f v k, (s.voice f v).line k = h.refs s.active f v k)
    (hslots : ∀ v k, k ∉ lineSlots s.active → h.ref (v, k) = none) : AllocatorConsistent s := by
  refine allocatorConsistent_iff.2
    ⟨ha ▸ hc.congr hrefs, fun f v k hf => (hrefs f v k).trans (if_neg hf), fun f v k hk => ?_⟩
  rw [hrefs]
  by_cases hf : f = s.active
  · subst hf
    exact (Holding.refs_same _ _).trans (hslots v k hk)
  · exact if_neg hf

theorem AllocatorConsistent.switchTo {s : State} {r : Family} (hr : r ≠ s.active) (h : AllocatorConsistent s) :
    AllocatorConsistent (s.switchTo r) := by
  obtain ⟨hc, hactive, hslots⟩ := allocatorConsistent_iff.1 h
  have hstop := psForceStopAll_lineWork s s.active
  have hrelease : (switchRelease s).alloc.Consistent s.nLines ((switchRelease s).refs s.active) := by
    refine release_consistent (hc.congr fun f v k => ?_)
    by_cases hf : f = s.active
    · subst hf
      exact (Holding.refs_same _ _).trans (hstop.lines _ v k)
    · exact (if_neg hf).trans (hactive f v k hf).symm
  have hreleased : ∀ vk, (switchRelease s).ref vk = none := by
    rintro ⟨v, k⟩
    by_cases hk : k ∈ lineSlots s.active
    · exact release_ref _ _ hk
    · exact (release_ref_other _ _ hk).trans ((hstop.lines _ v k).trans (hslots _ v k hk))
  have hcheckout : (switchCheckout s r).alloc.Consistent s.nLines ((switchCheckout s r).refs r) := by
    refine checkout_consistent (hrelease.congr fun f v k => ?_) fun vk => hactive r vk.1 vk.2 hr
    have hnone : (switchRelease s).refs s.active f v k = none := by
      unfold Holding.refs
      rw [hreleased, ite_self]
    rw [hnone]
    exact (congrArg (ite (f = r) · none) (hactive r v k hr)).trans (ite_self _)
  have hstate := switchTo_other hr
  have halloc : (s.switchTo r).alloc = (switchCheckout s r).alloc := by rw [hstate]
  have hnew : (s.switchTo r).active = r := by rw [hstate]
  have hlines : (s.switchTo r).nLines = s.nLines := by rw [hstate]; rfl
  rw [← hlines] at hcheckout
  refine allocatorConsistent_of_holding halloc (by rwa [hnew]) (fun f v k => ?_) fun v k hk => ?_
  · rw [switchTo_line hr, hnew]
    unfold Holding.refs
    split
    · rfl
    · split
      · exact hreleased (v, k)
      · exact hactive f v k ‹_›
  · rw [hnew] at hk
    exact (checkout_ref_other _ _ hk).trans (hslots r v k hk)

theorem allocatorConsistent_resetOf (cfg : Cfg) : AllocatorConsistent (State.resetOf cfg) := by
  have hreset (f : Family) (v : Fin 8) (k : Fin 2) : (Vector.replicate 8 (resetVoice cfg.val f))[v].line k = none := by
    simp [resetVoice_line]
  have hstring : (resetHolding cfg.val).alloc.Consistent cfg.val.nLines ((resetHolding cfg.val).refs .string) := by
    refine checkout_consistent ((Allocator.resetAllocator_consistent cfg.val).congr fun f v k => ?_)
      fun vk => hreset .string vk.1 vk.2
    exact (congrArg (ite (f = .string) · none) (hreset .string v k)).trans (ite_self _)
  refine allocatorConsistent_of_holding rfl hstring (fun f v k => ?_) fun v k hk => ?_
  · cases f with
    | string => rfl
    | reed => exact hreset .reed v k
    | bow => exact hreset .bow v k
  · exact (checkout_ref_other _ _ hk).trans (hreset .string v k)

theorem allocatorConsistent_lineInvariant : LineInvariant AllocatorConsistent where
  work {s t} h hw := by
    obtain ⟨hc, hactive, hslots⟩ := allocatorConsistent_iff.1 h
    refine allocatorConsistent_iff.2 ⟨?_, fun f v k hf => ?_, fun f v k hk => (hw.lines f v k).trans (hslots f v k hk)⟩
    · rw [hw.alloc, hw.nLines]
      exact hc.congr hw.lines
    · exact (hw.lines f v k).trans (hactive f v k (hw.active ▸ hf))
  get {s} h := by
    obtain ⟨hc, hactive, hslots⟩ := allocatorConsistent_iff.1 h
    refine allocatorConsistent_iff.2 ⟨?_, hactive, hslots⟩
    obtain ⟨-, hp⟩ | ⟨l, rest, ha, hp⟩ := s.alloc.pop_cases .host
    · rw [hp]
      exact hc
    · rw [hp]
      exact hc.pop ha nofun nofun nofun fun _ _ _ _ => rfl
  release hl ho h := by
    obtain ⟨hc, hactive, hslots⟩ := allocatorConsistent_iff.1 h
    exact allocatorConsistent_iff.2
      ⟨hc.pushAvail hl (by rw [ho]; nofun) (by rw [ho]; nofun) fun _ _ _ _ => rfl, hactive, hslots⟩
  switch hr h := h.switchTo hr
  reset := allocatorConsistent_resetOf

end Sys2Proof.Machine

open Sys2Proof Sys2Proof.Machine

/-- Settles O57: each of the moves of a line keeps it in one place, and line work moves none. -/
theorem stepKeepsAllocator : Obligations.StepKeepsAllocator := fun _ _ hs h => allocatorConsistent_lineInvariant.step h hs

end

section
/-! ALLOC_GET and ALLOC_RELEASE (41_delay_alloc R420, R421, R425). -/

namespace Sys2Proof.Machine

open Sys2Proof.Claims

/-! ### The refusals of a diagnostic command -/

/-- In RUN mode every diagnostic command is refused by the gate; in STOP mode it is left to its operand checks. -/
theorem guarded_of {i : Instr} {s : State} (hi : i.isDiagnostic = true)
    (harg : s.mode = .stop → argRefused s i → exec i s = .next (refused s .illegalArg)) : Guarded i s :=
  ⟨(modeGateAndCommandClasses i s).2.1 hi, harg⟩

/-- The operand check of a command whose only operand to refuse is LINE. -/
theorem exec_onLine_refused {i : Instr} {s pass : State} {l : Nat}
    (he : exec i s = .next (s.diagnostic (s.onLine l pass))) (hm : s.mode = .stop) (hl : s.nLines ≤ l) :
    exec i s = .next (refused s .illegalArg) := by
  rw [he, State.diagnostic_stop hm, State.onLine_outside hl]
  rfl

/-- A command behind the mode gate and the check of its line is guarded. -/
theorem guarded_onLine {i : Instr} {s pass : State} {l : Nat} (hi : i.isDiagnostic = true)
    (he : exec i s = .next (s.diagnostic (s.onLine l pass))) (ha : argRefused s i → s.nLines ≤ l) : Guarded i s :=
  guarded_of hi fun hm h => exec_onLine_refused he hm (ha h)

theorem exec_onLine_passed {i : Instr} {s pass : State} {l : Nat}
    (he : exec i s = .next (s.diagnostic (s.onLine l pass))) (hm : s.mode = .stop) (hl : l < s.nLines) :
    exec i s = .next pass := by
  rw [he, State.diagnostic_stop hm, State.onLine_inside hl]

/-! ### The two commands in STOP mode -/

section
variable {s : State} (hm : s.mode = .stop)
include hm

theorem exec_allocGet_nil (ha : s.alloc.avail = []) : exec .allocGet s = .next (completed s nullLine) := by
  simp only [exec, execAllocGet, State.diagnostic_stop hm, Allocator.pop, ha]
  rfl

theorem exec_allocGet_cons {l : Nat} {rest : List Nat} (ha : s.alloc.avail = l :: rest) : exec .allocGet s =
    .next (completed { s with alloc := ⟨rest, s.alloc.owner.set l .host⟩ } (BitVec.ofNat 32 l)) := by
  simp only [exec, execAllocGet, State.diagnostic_stop hm, Allocator.pop, ha]
  rfl

theorem exec_allocRelease {l : Nat} (hl : l < s.nLines) (ho : s.alloc.ownerOf l = .host) : exec (.allocRelease l) s =
    .next (completed { s with alloc := s.alloc.pushAvail l } 0#32) := by
  rw [exec_onLine_passed (i := .allocRelease l) rfl hm hl, if_pos ho]
  rfl

theorem exec_allocRelease_refused {l : Nat} (h : argRefused s (.allocRelease l)) :
    exec (.allocRelease l) s = .next (refused s .illegalArg) := by
  rcases Nat.lt_or_ge l s.nLines with hl | hl
  · rw [exec_onLine_passed (i := .allocRelease l) rfl hm hl, if_neg (h.resolve_left (Nat.not_le.2 hl))]
    rfl
  · exact exec_onLine_refused (i := .allocRelease l) rfl hm hl

/-- As many ALLOC_GETs as lines are available answer these lines and leave the stack empty. -/
theorem responses_allocGets {xs : List Nat} (ha : s.alloc.avail = xs) : ∃ t : State, t.mode = .stop ∧ t.alloc.avail = [] ∧
    ∀ is, responses (List.replicate xs.length .allocGet ++ is) s = xs.map (BitVec.ofNat 32) ++ responses is t := by
  induction xs generalizing s with
  | nil => exact ⟨s, hm, ha, fun _ => rfl⟩
  | cons l rest ih =>
    obtain ⟨t, htm, hta, hresp⟩ :=
      ih (s := completed { s with alloc := ⟨rest, s.alloc.owner.set l .host⟩ } (BitVec.ofNat 32 l)) hm rfl
    refine ⟨t, htm, hta, fun is => ?_⟩
    simp only [List.length_cons, List.replicate_succ, List.cons_append, responses, exec_allocGet_cons hm ha, hresp is,
      List.map_cons]
    rfl

end

/-! ### Owners and available lines -/

theorem AllocatorConsistent.host_line {s : State} (h : AllocatorConsistent s) {l : Nat}
    (hl : s.alloc.owner[l]? = some .host) : l < s.nLines ∧ s.alloc.ownerOf l = .host :=
  ⟨h.owners ▸ (List.getElem?_eq_some_iff.1 hl).1, by
    rw [Allocator.ownerOf, List.getD_eq_getElem?_getD, hl]
    rfl⟩

/-- Lines of a pool are below NULL_LINE, and different as words. -/
theorem toNat_ofNat_line {s : State} {l : Nat} (hl : l < s.nLines) : (BitVec.ofNat 32 l).toNat = l ∧ l < 255 := by
  have hn : s.nLines ≤ 255 := nLines_le s.cfg
  rw [BitVec.toNat_ofNat]
  omega

end Sys2Proof.Machine

open Sys2Proof Sys2Proof.Machine Sys2Proof.Claims

/-- Settles O27: the checks, then Pop for the HOST and Push_avail of a HOST line. -/
theorem allocGetAndRelease : Obligations.AllocGetAndRelease := by
  intro s
  refine ⟨guarded_of rfl fun _ => nofun, fun l => guarded_of rfl fun hm => exec_allocRelease_refused hm, fun hm hc => ?_⟩
  refine ⟨exec_allocGet_nil hm, fun l rest ha => ?_, fun l hl => ?_⟩
  · have hl : l < s.alloc.owner.length := hc.owners ▸ hc.availLines l (ha ▸ List.mem_cons_self)
    exact ⟨_, exec_allocGet_cons hm ha, List.getElem?_set_self hl, fun k hk => List.getElem?_set_ne hk.symm⟩
  · obtain ⟨hpool, howner⟩ := hc.host_line hl
    refine ⟨_, exec_allocRelease hm hpool howner, List.getElem?_set_self ?_, fun k hk => List.getElem?_set_ne hk.symm⟩
    rwa [hc.owners]

/-- Settles O28: each ALLOC_GET takes the top line, and the lines of a pool are different words below NULL_LINE. -/
theorem allocatorExhaustion : Obligations.AllocatorExhaustion := by
  refine ⟨fun s hm hc => ?_, by decide⟩
  obtain ⟨t, htm, hta, hresp⟩ := responses_allocGets hm (xs := s.alloc.avail) rfl
  have hword {l : Nat} (hl : l ∈ s.alloc.avail) := toNat_ofNat_line (hc.availLines l hl)
  refine ⟨?_, hc.nodup.map_on fun l hl k hk he => ?_, fun hnull => ?_, ?_, fun l hl => ?_⟩
  · simpa [responses] using hresp []
  · rw [← (hword hl).1, he, (hword hk).1]
  · obtain ⟨l, hl, he⟩ := List.mem_map.1 hnull
    obtain ⟨hnat, hlt⟩ := hword hl
    rw [he] at hnat
    exact absurd hlt (by rw [← hnat]; decide)
  · rw [List.replicate_succ', hresp, responses, exec_allocGet_nil htm hta]
    rfl
  · obtain ⟨hpool, howner⟩ := hc.host_line hl
    have hget := exec_allocGet_cons (s := completed { s with alloc := s.alloc.pushAvail l } 0#32) hm
      (l := l) (rest := s.alloc.avail) rfl
    simp only [responses, exec_allocRelease hm hpool howner, hget]
    rfl

end

section
/-! A delay line by the age of its samples (41_delay_alloc R401, R402, R410, R411): the sample of age a is the a-th
last one pushed, a push makes every sample one older, and GetLast reads the one whose age is the delay length. -/

namespace Sys2Proof.Machine.DelayPool

open Sys2Proof.Claims

/-! ### Index arithmetic -/

section
variable {cap w : Nat} (hw : w < cap)
include hw

/-- The place a samples before the cursor: it wraps around at most once. -/
theorem index_sub {a : Nat} (ha : a ≤ cap) : index cap (w - a : Int) = if a ≤ w then w - a else w + cap - a := by
  unfold index
  split
  · rw [Int.emod_eq_of_lt (by omega) (by omega)]
    omega
  · rw [← Int.add_emod_right, Int.emod_eq_of_lt (by omega) (by omega)]
    omega

/-- The cursor advances by one, or from the last place to 0. -/
theorem succ_mod : (w + 1) % cap = if w + 1 = cap then 0 else w + 1 := by
  split
  · rename_i h
    rw [h, Nat.mod_self]
  · exact Nat.mod_eq_of_lt (by omega)

theorem index_succ_sub_succ {a : Nat} (ha : a < cap) :
    index cap (((w + 1) % cap : Nat) - (a + 1 : Nat) : Int) = index cap (w - a : Int) := by
  have hnext : (w + 1) % cap < cap := Nat.mod_lt _ (by omega)
  rw [index_sub hnext ha, index_sub hw ha.le, succ_mod hw]
  split_ifs <;> omega

/-- Only the samples of age 0 and C stand at the cursor. -/
theorem index_sub_ne {a : Nat} (h1 : 1 ≤ a) (ha : a < cap) : index cap (w - a : Int) ≠ w := by
  rw [index_sub hw ha.le]
  split_ifs <;> omega

theorem index_sub_cap : index cap (w - cap : Int) = w := by
  rw [index_sub hw le_rfl, if_neg (Nat.not_le.2 hw)]
  omega

theorem index_sub_zero : index cap (w - (0 : Nat) : Int) = w := by
  rw [index_sub hw (Nat.zero_le _), if_pos (Nat.zero_le _), Nat.sub_zero]

end

/-! ### The sample of an age -/

/-- The sample pushed a pushes ago into line l, of the last C. -/
def sampleAt (cap : Nat) (d : DelayPool) (l a : Nat) : F32 :=
  d.mem.read (address cap l (index cap ((d.line l).w - a : Int)))

/-- The pushes of a list of samples, one after another. -/
def pushes (cap : Nat) (d : DelayPool) (l : Nat) : List F32 → DelayPool
  | [] => d
  | y :: ys => pushes cap (d.push cap l y) l ys

/-- Line l is in the pool, and its cursor in the line. -/
structure CursorIn (cap : Nat) (d : DelayPool) (l : Nat) : Prop where
  inPool : l < d.lines.length
  cursor : (d.line l).w < cap

section
variable {cap l : Nat} {d : DelayPool} (h : d.CursorIn cap l)
include h

theorem CursorIn.push (x : F32) : (d.push cap l x).CursorIn cap l where
  inPool := by rw [push_lines_length]; exact h.inPool
  cursor := by rw [push_line_same x h.inPool]; exact Nat.mod_lt _ (Nat.zero_lt_of_lt h.cursor)

theorem push_len (x : F32) : ((d.push cap l x).line l).len = (d.line l).len := by rw [push_line_same x h.inPool]

theorem sampleAt_push_one (x : F32) : sampleAt cap (d.push cap l x) l 1 = x := by
  have hplace := index_succ_sub_succ h.cursor (Nat.zero_lt_of_lt h.cursor)
  rw [index_sub_zero h.cursor] at hplace
  rw [sampleAt, push_line_same x h.inPool, hplace, push_read_same]

/-- A push makes a sample one older. -/
theorem sampleAt_push_succ (x : F32) {a : Nat} (h1 : 1 ≤ a) (ha : a < cap) :
    sampleAt cap (d.push cap l x) l (a + 1) = sampleAt cap d l a := by
  rw [sampleAt, push_line_same x h.inPool, index_succ_sub_succ h.cursor ha, push_read_other, sampleAt]
  exact fun he => index_sub_ne h.cursor h1 ha (Nat.add_left_cancel he)

theorem sampleAt_pushes (ys : List F32) {a : Nat} (h1 : 1 ≤ a) (ha : a + ys.length ≤ cap) :
    sampleAt cap (pushes cap d l ys) l (a + ys.length) = sampleAt cap d l a := by
  induction ys generalizing d a with
  | nil => rfl
  | cons y ys ih =>
    rw [List.length_cons] at ha ⊢
    rw [← sampleAt_push_succ h y h1 (by omega), pushes, ← ih (h.push y) (by omega) (by omega)]
    congr 1
    omega

theorem CursorIn.pushes (ys : List F32) : (pushes cap d l ys).CursorIn cap l := by
  induction ys generalizing d with
  | nil => exact h
  | cons y ys ih => exact ih (h.push y)

theorem pushes_len (ys : List F32) : ((pushes cap d l ys).line l).len = (d.line l).len := by
  induction ys generalizing d with
  | nil => rfl
  | cons y ys ih => rw [pushes, ih (h.push y), push_len h]

/-- GetLast reads the sample of age L, or the oldest one when L = 0. -/
theorem getLast_eq_sampleAt :
    d.getLast cap l = sampleAt cap d l (if (d.line l).len = 0 then cap else (d.line l).len) := by
  split
  · rename_i hlen
    rw [getLast, lastAddress, sampleAt, hlen, index_sub_zero h.cursor, index_sub_cap h.cursor]
  · rfl

/-- After L pushes GetLast reads the first of them. -/
theorem getLast_pushes (x : F32) (xs : List F32) (hlen : (d.line l).len = xs.length + 1) (hcap : xs.length + 1 ≤ cap) :
    (pushes cap d l (x :: xs)).getLast cap l = x := by
  rw [getLast_eq_sampleAt (h.pushes _), pushes_len h, hlen, if_neg (Nat.succ_ne_zero _), pushes, Nat.add_comm,
    sampleAt_pushes (h.push x) xs le_rfl (by omega), sampleAt_push_one h]

end

/-! ### The last samples, oldest first -/

/-- The last r samples pushed into line l, oldest first. -/
def recent (cap : Nat) (d : DelayPool) (l : Nat) : Nat → List F32
  | 0 => []
  | r + 1 => sampleAt cap d l (r + 1) :: recent cap d l r

section
variable {cap l : Nat} {d : DelayPool} (h : d.CursorIn cap l)
include h

theorem recent_push (x : F32) {r : Nat} (hr : r < cap) :
    recent cap (d.push cap l x) l (r + 1) = recent cap d l r ++ [x] := by
  induction r with
  | zero => exact congrArg (· :: []) (sampleAt_push_one h x)
  | succ r ih =>
    rw [recent, ih (by omega), sampleAt_push_succ h x (by omega) hr]
    rfl

variable {r : Nat} (hr : r < cap) (hlen : (if (d.line l).len = 0 then cap else (d.line l).len) = r + 1)
include hr hlen

/-- Read before push gives the last r + 1 samples and then the stream, where r + 1 is the delay realised. -/
theorem readThenPush_eq (xs : List F32) : readThenPush cap l d xs = (recent cap d l (r + 1) ++ xs).take xs.length := by
  induction xs generalizing d with
  | nil => simp [readThenPush]
  | cons x xs ih =>
    rw [← push_len h x] at hlen
    rw [readThenPush, ih (h.push x) hlen, recent_push h x hr]
    rw [push_len h x] at hlen
    rw [getLast_eq_sampleAt h, hlen, recent]
    simp

/-- Process reads after the push, and so one sample earlier. -/
theorem processAll_eq (xs : List F32) : processAll cap l d xs = (recent cap d l r ++ xs).take xs.length := by
  induction xs generalizing d with
  | nil => simp [processAll]
  | cons x xs ih =>
    have hlen' := hlen
    rw [← push_len h x] at hlen'
    have hpushed : recent cap d l r ++ x :: xs = recent cap (d.push cap l x) l (r + 1) ++ xs := by
      rw [recent_push h x hr, List.append_assoc]
      rfl
    rw [hpushed, recent, processAll, process, ih (h.push x) hlen', getLast_eq_sampleAt (h.push x), hlen']
    rfl

end

/-! ### A cleared line -/

theorem sampleAt_clear {cap : Nat} (hcap : 0 < cap) (d : DelayPool) (l a : Nat) :
    sampleAt cap (d.clear cap l) l a = Fp.zero :=
  clear_read_inside d (index_lt hcap _)

theorem recent_clear {cap : Nat} (hcap : 0 < cap) (d : DelayPool) (l r : Nat) :
    recent cap (d.clear cap l) l r = List.replicate r Fp.zero := by
  induction r with
  | zero => rfl
  | succ r ih => rw [recent, sampleAt_clear hcap, ih, List.replicate_succ]

/-- A length below C is set as it is. -/
theorem setDelay_len {cap l : Nat} {d : DelayPool} (hl : l < d.lines.length) {n : Nat} (hn : n < cap) :
    ((d.setDelay cap l n).line l).len = n := by
  rw [setDelay_line_same _ hl, clampInt_eq (by omega)]
  dsimp only
  omega

end Sys2Proof.Machine.DelayPool

open Sys2Proof Sys2Proof.Machine Sys2Proof.Claims

/-- Settles O26: a cleared line's last samples are zeros, and each access pattern gives the last samples and then the
stream. -/
theorem delayRealised : Obligations.DelayRealised := by
  intro s l len xs hl hlines hlen d realised
  have hcap : 0 < s.cap := cap_pos s.cfg
  have hset : l < (s.delay.setDelay s.cap l len).lines.length := by rwa [DelayPool.setDelay_lines_length, hlines]
  have hline : d.line l = ⟨0, len⟩ := by
    rw [DelayPool.clear_line_same hset, DelayPool.setDelay_len (by rwa [hlines]) hlen]
  have hd : d.CursorIn s.cap l := ⟨by rwa [DelayPool.clear_lines_length], by rwa [hline]⟩
  obtain ⟨r, hr⟩ : ∃ r, realised = r + 1 := Nat.exists_eq_succ_of_ne_zero (by dsimp only [realised]; split <;> omega)
  have hrcap : r < s.cap := by
    have : realised ≤ s.cap := by dsimp only [realised]; split <;> omega
    omega
  have hdelay : (if (d.line l).len = 0 then s.cap else (d.line l).len) = r + 1 := by rw [hline]; exact hr
  rw [DelayPool.readThenPush_eq hd hrcap hdelay, DelayPool.processAll_eq hd hrcap hdelay, hr, DelayPool.recent_clear hcap,
    DelayPool.recent_clear hcap]
  exact ⟨rfl, rfl⟩

end

section
/-! The commands of UNIT 2 on one line (41_delay_alloc R400–R405, R411). -/

namespace Sys2Proof.Machine

open Sys2Proof.Claims

section
variable {s : State} {l : Nat} (h : LineReady s l)
include h

theorem exec_dlPush (x : F32) :
    exec (.dlPush l x) s = .next (completed { s with delay := s.delay.push s.cap l x } 0#32) :=
  exec_onLine_passed (i := .dlPush l x) rfl h.stopped h.inPool

theorem exec_dlGetLast : exec (.dlGetLast l) s = .next (completed s (s.delay.getLast s.cap l)) :=
  exec_onLine_passed (i := .dlGetLast l) rfl h.stopped h.inPool

theorem exec_dlProcess (x : F32) : exec (.dlProcess l x) s =
    .next (completed { s with delay := s.delay.push s.cap l x } ((s.delay.push s.cap l x).getLast s.cap l)) :=
  exec_onLine_passed (i := .dlProcess l x) rfl h.stopped h.inPool

theorem exec_dlSetDelay (n : Word) : exec (.dlSetDelay l n) s =
    .next (completed { s with delay := s.delay.setDelay s.cap l n.toInt }
      (BitVec.ofNat 32 ((s.delay.setDelay s.cap l n.toInt).line l).len)) :=
  exec_onLine_passed (i := .dlSetDelay l n) rfl h.stopped h.inPool

theorem exec_dlClear : exec (.dlClear l) s = .next (completed { s with delay := s.delay.clear s.cap l } 0#32) :=
  exec_onLine_passed (i := .dlClear l) rfl h.stopped h.inPool

theorem lineReady_lt : l < s.delay.lines.length := h.cursors ▸ h.inPool

/-- The line stays ready while the mode, the configuration and the number of lines stay. -/
theorem lineReady_delay {d : DelayPool} (hd : d.lines.length = s.delay.lines.length) (r : Word) :
    LineReady (completed { s with delay := d } r) l := ⟨h.stopped, h.inPool, hd.trans h.cursors⟩

/-- Pushes and then DL_GETLAST answer what GetLast reads after the pushes. -/
theorem runAll_pushes_getLast (ys : List F32) :
    ∃ t, runAll (ys.map (.dlPush l ·) ++ [.dlGetLast l]) s = some t ∧
      t.result = (s.delay.pushes s.cap l ys).getLast s.cap l := by
  induction ys generalizing s with
  | nil =>
    refine ⟨completed s (s.delay.getLast s.cap l), ?_, rfl⟩
    simp only [List.map_nil, List.nil_append, runAll, exec_dlGetLast h]
  | cons y ys ih =>
    have hready := lineReady_delay h (DelayPool.push_lines_length s.cap s.delay l y) 0#32
    obtain ⟨t, ht, hresult⟩ := ih hready
    refine ⟨t, ?_, hresult⟩
    simp only [List.map_cons, List.cons_append, runAll, exec_dlPush h]
    exact ht

end

end Sys2Proof.Machine

open Sys2Proof Sys2Proof.Machine Sys2Proof.Claims

/-- Settles O21: the rules of Push, the line's word being l · C + w. -/
theorem dlPush : Obligations.DlPush := by
  refine fun s l x => ⟨guarded_onLine rfl rfl id, fun h => ⟨_, exec_dlPush h x, ?_⟩⟩
  exact ⟨DelayPool.push_read_same .., fun a ha => DelayPool.push_read_other x ha,
    DelayPool.push_line_same x (lineReady_lt h), fun k hk => DelayPool.push_line_other x hk, DelayPool.push_lines_length ..⟩

/-- Settles O22: GetLast reads its address, and SetDelay sets the clamped length. -/
theorem dlGetLastAndSetDelay : Obligations.DlGetLastAndSetDelay := by
  refine fun s l n => ⟨guarded_onLine rfl rfl id, guarded_onLine rfl rfl id, fun h => ⟨exec_dlGetLast h, ?_⟩⟩
  have hcap : 0 < s.cap := cap_pos s.cfg
  have hline := DelayPool.setDelay_line_same (cap := s.cap) n.toInt (lineReady_lt h)
  refine ⟨_, exec_dlSetDelay h n, rfl, ?_, ?_, fun k hk => DelayPool.setDelay_line_other _ hk,
    DelayPool.setDelay_lines_length ..⟩
  · rw [hline, DelayPool.clampInt_eq (by omega)]
    exact Int.toNat_of_nonneg (le_max_left _ _)
  · rw [hline]

/-- Settles O23: Process is Push and then GetLast, and with L = 1 the sample of age 1 is the one just pushed. -/
theorem dlProcess : Obligations.DlProcess := by
  refine fun s l x => ⟨guarded_onLine rfl rfl id, fun h hw => ?_⟩
  have hpushed : LineReady { s with delay := s.delay.push s.cap l x } l :=
    ⟨h.stopped, h.inPool, (DelayPool.push_lines_length ..).trans h.cursors⟩
  refine ⟨_, _, exec_dlProcess h x, exec_dlPush h x, exec_dlGetLast hpushed, fun hlen => ?_⟩
  have hline : s.delay.CursorIn s.cap l := ⟨lineReady_lt h, hw⟩
  rw [DelayPool.getLast_eq_sampleAt (hline.push x), DelayPool.push_len hline, hlen]
  exact DelayPool.sampleAt_push_one hline x

/-- Settles O24: the rules of Clear, the line's words being l · C to (l + 1) · C − 1. -/
theorem dlClear : Obligations.DlClear := by
  refine fun s l => ⟨guarded_onLine rfl rfl id, fun h => ⟨_, exec_dlClear h, ?_⟩⟩
  refine ⟨fun i hi => DelayPool.clear_read_inside _ hi, fun a ha => DelayPool.clear_read_outside _ ?_,
    DelayPool.clear_line_same (lineReady_lt h), fun k hk => DelayPool.clear_line_other hk, DelayPool.clear_lines_length ..⟩
  rwa [Nat.succ_mul] at ha

/-- Settles O25: after the pushes GetLast reads the first of them. -/
theorem delayRoundTrip : Obligations.DelayRoundTrip := by
  intro s l x xs h hw hlen
  have hcap : s.cap ≤ 2 ^ 24 := cap_le s.cfg
  have hword : (BitVec.ofNat 32 (xs.length + 1)).toInt = ((xs.length + 1 : Nat) : Int) := by
    rw [BitVec.toInt_eq_toNat_of_lt] <;> rw [BitVec.toNat_ofNat] <;> omega
  have hset := exec_dlSetDelay h (BitVec.ofNat 32 (xs.length + 1))
  rw [hword] at hset
  have hn := DelayPool.setDelay_len (lineReady_lt h) hlen
  have hd : (s.delay.setDelay s.cap l (xs.length + 1 : Nat)).CursorIn s.cap l :=
    ⟨(lineReady_lt h).trans_eq (DelayPool.setDelay_lines_length ..).symm, by
      rwa [DelayPool.setDelay_line_same _ (lineReady_lt h)]⟩
  obtain ⟨t, ht, hresult⟩ := runAll_pushes_getLast (lineReady_delay h (DelayPool.setDelay_lines_length ..) _) (x :: xs)
  refine ⟨t, ?_, hresult.trans (DelayPool.getLast_pushes hd x xs hn hlen.le)⟩
  simp only [List.cons_append, runAll, hset]
  exact ht

end

section
/-! The split of a delay (42_tuning R450, R451): between 0.5 and 65536.0 the integer part is the floor or one less, and one
is borrowed only from a floor of at least 1. -/

namespace Sys2Proof.Machine

open Sys2Proof.Claims Sys2Proof.Arith

theorem le_of_fp_lt {x y : F32} (h : Fp.lt x y = true) : Fp.le x y = true := by
  obtain ⟨hx, hy, hlt⟩ := lt_iff.1 h
  exact le_iff.2 ⟨hx, hy, hlt.le⟩

/-! ### The branches of TF_Split -/

theorem tfSplit_of_below_half (T : Tuning) {d : F32} (h : Fp.isNaN d = true ∨ Fp.lt d Fp.half = true) :
    tfSplit T d = ({ T with alpha := Fp.zero }, 0) := if_pos (by simpa using h)

theorem tfSplit_of_half_le (T : Tuning) {x : F32} (hn : Fp.isNaN x = false) (hx : Fp.lt x Fp.half = false) :
    let d := Fp.min x Fp.tfDMax
    let frac := Fp.sub d (Fp.floor d)
    let whole := Fp.toInt (Fp.floor d)
    let g := if Fp.lt frac Fp.half then Fp.add frac Fp.one else frac
    tfSplit T x = ({ T with alpha := Fp.div (Fp.sub Fp.one g) (Fp.add Fp.one g) },
      if Fp.lt frac Fp.half then whole - 1 else whole) := by
  intro d frac whole g
  rw [tfSplit, if_neg (by simp [hn, hx])]
  by_cases hb : Fp.lt frac Fp.half = true
  · simp only [g, if_pos hb]
    exact if_pos hb
  · simp only [g, if_neg hb]
    exact if_neg hb

/-! ### Delays from 65536.0 up -/

theorem min_tfDMax_of_le {d : F32} (h : Fp.le Fp.tfDMax d = true) : Fp.min d Fp.tfDMax = Fp.tfDMax := by
  obtain ⟨-, hn, hle⟩ := le_iff.1 h
  rcases hle.lt_or_eq with hlt | heq
  · exact min_of_lt (lt_iff.2 ⟨by decide, hn, hlt⟩)
  · have hkey : Fp.orderKey Fp.tfDMax = 0x47800000 := by decide
    obtain rfl : d = Fp.tfDMax := by
      rw [hkey, orderKey_eq] at heq
      cases hs : Fp.isNeg d
      · rw [hs, if_neg Bool.false_ne_true] at heq
        exact eq_of_sign_mag (hs.trans (by decide)) ((by omega : mag d = 0x47800000).trans (by decide))
      · rw [hs, if_pos rfl] at heq
        omega
    decide

theorem not_lt_half_of_tfDMax_le {d : F32} (h : Fp.le Fp.tfDMax d = true) : Fp.lt d Fp.half = false := by
  have hlt : Fp.lt Fp.half d = true := lt_le_trans (by decide : Fp.lt Fp.half Fp.tfDMax = true) h
  exact not_lt_of_le (le_of_fp_lt hlt)

theorem tfSplit_of_tfDMax_le (T : Tuning) {d : F32} (h : Fp.le Fp.tfDMax d = true) :
    tfSplit T d = ({ T with alpha := Fp.zero }, 65535) := by
  rw [tfSplit_of_half_le T (le_iff.1 h).2.1 (not_lt_half_of_tfDMax_le h), min_tfDMax_of_le h]
  have hfloor : Fp.floor Fp.tfDMax = Fp.tfDMax := by decide
  have hfrac : Fp.sub Fp.tfDMax Fp.tfDMax = Fp.zero := by decide
  have hwhole : Fp.toInt Fp.tfDMax = 65536 := by decide
  have halpha : Fp.div (Fp.sub Fp.one (Fp.add Fp.zero Fp.one)) (Fp.add Fp.one (Fp.add Fp.zero Fp.one)) = Fp.zero := by decide
  have hborrow : Fp.lt Fp.zero Fp.half = true := by decide
  simp only [hfloor, hfrac, hborrow, hwhole, halpha, if_true]
  norm_num

/-! ### Delays between 0.5 and 65536.0 -/

theorem finite_value_half : finite Fp.half ∧ value Fp.half = 1 / 2 := by
  have hexp : Fp.exponent Fp.half = -24 := by decide
  have hsig : Fp.signedSignificand Fp.half = 2 ^ 23 := by decide
  refine ⟨by unfold finite; decide, ?_⟩
  rw [value, hexp, hsig]
  norm_num

theorem finite_value_tfDMax : finite Fp.tfDMax ∧ value Fp.tfDMax = 65536 := by
  have hexp : Fp.exponent Fp.tfDMax = -7 := by decide
  have hsig : Fp.signedSignificand Fp.tfDMax = 2 ^ 23 := by decide
  refine ⟨by unfold finite; decide, ?_⟩
  rw [value, hexp, hsig]
  norm_num

theorem finite_value_of_between {d : F32} (hlo : Fp.le Fp.half d = true) (hhi : Fp.lt d Fp.tfDMax = true) :
    finite d ∧ 1 / 2 ≤ value d ∧ value d < 65536 := by
  obtain ⟨-, hn, hklo⟩ := le_iff.1 hlo
  obtain ⟨-, -, hkhi⟩ := lt_iff.1 hhi
  have hfin : finite d := ⟨hn, by
    rw [← Bool.not_eq_true]
    intro hinf
    have hhalf : Fp.orderKey Fp.half = 0x3F000000 := by decide
    have hmax : Fp.orderKey Fp.tfDMax = 0x47800000 := by decide
    have hend := orderKey_of_isInf hinf
    split at hend <;> omega⟩
  refine ⟨hfin, ?_, ?_⟩
  · rw [← finite_value_half.2]
    exact (le_iff_value finite_value_half.1 hfin).1 hlo
  · rw [← finite_value_tfDMax.2]
    exact (lt_iff_value hfin finite_value_tfDMax.1).1 hhi

/-- Below 1 the fraction is the delay itself, exactly. -/
theorem value_fraction_of_floor_zero {d : F32} (hd : finite d) (h0 : ⌊value d⌋ = 0) :
    finite (Fp.sub d (Fp.floor d)) ∧ value (Fp.sub d (Fp.floor d)) = value d := by
  obtain ⟨hfloor, hval, -⟩ := floor_of_finite hd
  have hround := roundsTo_sum (Fp.nanOf .sub d (Fp.floor d)) hd ((finite_neg _).2 hfloor)
  rw [value_neg, hval, h0, Int.cast_zero, neg_zero, add_zero] at hround
  exact value_of_roundsTo_value hround hd

/-- The integer part of a delay between 0.5 and 65536.0, with or without the borrow. -/
theorem tfSplit_whole_range {d : F32} (hlo : Fp.le Fp.half d = true) (hhi : Fp.lt d Fp.tfDMax = true) :
    let i := if Fp.lt (Fp.sub d (Fp.floor d)) Fp.half then Fp.toInt (Fp.floor d) - 1 else Fp.toInt (Fp.floor d)
    0 ≤ i ∧ i ≤ 65535 := by
  obtain ⟨hd, hge, hlt⟩ := finite_value_of_between hlo hhi
  obtain ⟨hfloor, hval, -⟩ := floor_of_finite hd
  have hnonneg : 0 ≤ ⌊value d⌋ := Int.floor_nonneg.2 (by linarith)
  have hbelow : ⌊value d⌋ < 65536 := Int.floor_lt.2 (by exact_mod_cast hlt)
  have hborrow (hb : Fp.lt (Fp.sub d (Fp.floor d)) Fp.half = true) : ⌊value d⌋ ≠ 0 := fun h0 => by
    obtain ⟨hfin, hfrac⟩ := value_fraction_of_floor_zero hd h0
    rw [lt_iff_value hfin finite_value_half.1, hfrac, finite_value_half.2] at hb
    linarith
  rw [toInt_of_value_int hfloor hval]
  dsimp only
  split
  · rename_i hb
    have := hborrow hb
    omega
  · omega

end Sys2Proof.Machine

open Sys2Proof Sys2Proof.Machine Sys2Proof.Arith

/-- Settles O31: below 0.5 the part is 0, from 65536.0 up the split is that of 65536.0, and between them a borrow needs a
floor of at least 1. -/
theorem tuningSplitRange : Obligations.TuningSplitRange := by
  refine fun T d => and_assoc.1 ⟨?_, tfSplit_of_tfDMax_le T⟩
  by_cases hsmall : Fp.isNaN d = true ∨ Fp.lt d Fp.half = true
  · rw [tfSplit_of_below_half T hsmall]
    exact ⟨le_rfl, by norm_num⟩
  · rw [not_or, Bool.not_eq_true, Bool.not_eq_true] at hsmall
    obtain ⟨hn, hhalf⟩ := hsmall
    cases hmax : Fp.le Fp.tfDMax d
    · have hlo : Fp.le Fp.half d = true := by simpa [lt_eq_not_le hn finite_value_half.1.1] using hhalf
      have hhi : Fp.lt d Fp.tfDMax = true := by rw [lt_eq_not_le hn finite_value_tfDMax.1.1, hmax]; rfl
      rw [tfSplit_of_half_le T hn hhalf, min_of_not_lt (not_lt_of_le (le_of_fp_lt hhi))]
      exact tfSplit_whole_range hlo hhi
    · rw [tfSplit_of_tfDMax_le T hmax]
      exact ⟨by norm_num, le_rfl⟩

end

section
/-! The commands of UNIT 4 (42_tuning R450–R452), behind the mode gate and the check of FAM. -/

namespace Sys2Proof.Machine

open Sys2Proof.Claims

/-! ### Commands whose only operand to refuse is FAM -/

theorem guarded_onFamily {i : Instr} {s : State} {fam : Nat} {pass : Family → State} (hi : i.isDiagnostic = true)
    (he : exec i s = .next (s.diagnostic (s.onFamily fam pass))) (ha : argRefused s i → 3 ≤ fam) : Guarded i s :=
  guarded_of hi fun hm h => by
    rw [he, State.diagnostic_stop hm, State.onFamily_none (familyOf_eq_none.2 (ha h))]
    rfl

theorem exec_onFamily_passed {i : Instr} {s : State} {fam : Nat} {f : Family} {pass : Family → State}
    (he : exec i s = .next (s.diagnostic (s.onFamily fam pass))) (hm : s.mode = .stop) (hf : familyOf fam = some f) :
    exec i s = .next (pass f) := by
  rw [he, State.diagnostic_stop hm, State.onFamily_some hf]

/-! ### The two commands in STOP mode -/

section
variable {s : State} {fam : Nat} {f : Family} (hm : s.mode = .stop) (hf : familyOf fam = some f)
include hm hf

theorem exec_tfSetDelay {v : Fin 8} {d : F32} {T : Tuning} {i : Int} (h : tfSplit (s.voice f v).tune d = (T, i)) :
    exec (.tfSetDelay fam v d) s =
      .next (completed (s.setVoice f v { s.voice f v with tune := T }) (BitVec.ofInt 32 i)) := by
  rw [exec_onFamily_passed (i := .tfSetDelay fam v d) rfl hm hf, h]
  rfl

theorem exec_tfProcess (v : Fin 8) (x : F32) : exec (.tfProcess fam v x) s =
    .next (completed (s.setVoice f v { s.voice f v with tune := (tfStep (s.voice f v).tune x).1 })
      (tfStep (s.voice f v).tune x).2) :=
  exec_onFamily_passed (i := .tfProcess fam v x) rfl hm hf

end

end Sys2Proof.Machine

open Sys2Proof Sys2Proof.Machine

/-- Settles O30: the two checks, then the branches of TF_Split and the step of TF_Step. -/
theorem tuneCommands : Obligations.TuneCommands := by
  refine fun s fam f v x => ⟨guarded_onFamily rfl rfl id, guarded_onFamily rfl rfl id, fun hm hf => ?_⟩
  refine ⟨fun hsmall => ?_, fun hn hx => ?_, exec_tfProcess hm hf v x⟩
  · exact exec_tfSetDelay hm hf (tfSplit_of_below_half _ hsmall)
  · exact exec_tfSetDelay hm hf (tfSplit_of_half_le _ hn hx)

end

section
/-! The loss filter (43_loss R500–R505): the branches of its functions, by type. -/

namespace Sys2Proof.Machine

open Sys2Proof.Claims Sys2Proof.Arith

/-! ### LF_Design, LF_SetCutoff and LF_SetType -/

/-- LF_Design writes the coefficients only. -/
theorem lfDesign_keeps (p : Config.Params) (F : Loss) :
    (lfDesign p F).ty = F.ty ∧ (lfDesign p F).fc = F.fc ∧ (lfDesign p F).s1 = F.s1 ∧ (lfDesign p F).s2 = F.s2 := by
  unfold lfDesign
  cases F.ty <;> exact ⟨rfl, rfl, rfl, rfl⟩

theorem designed_lfDesign (p : Config.Params) (F : Loss) : Designed p (lfDesign p F) := by
  obtain ⟨ty, fc, b0, b1, b2, a1, a2, s1, s2⟩ := F
  cases ty
  case lpf1 => exact ⟨fun _ => ⟨rfl, rfl, rfl, rfl, rfl⟩, nofun⟩
  case lpf2 => exact ⟨nofun, fun _ => ⟨rfl, rfl, rfl, rfl, rfl⟩⟩

theorem ceilingOf_lossKind (f : Family) : ceilingOf (lossKind f) = lossCeiling f := by cases f <;> rfl

theorem cutoffSet_lfSetCutoff (p : Config.Params) (f : Family) (F : Loss) (x : F32) :
    CutoffSet p f F x (lfSetCutoff p (lossKind f) F x) := by
  unfold lfSetCutoff
  rw [ceilingOf_lossKind]
  obtain ⟨hty, hfc, hs1, hs2⟩ := lfDesign_keeps p
    { F with fc := Fp.clamp (if Fp.isNaN x then Fp.zero else x) Fp.zero (lossCeiling f) }
  exact ⟨hfc, hty, hs1, hs2, designed_lfDesign p _⟩

theorem typeSet_lfSetType (p : Config.Params) (F : Loss) (t : LossType) : TypeSet p F t (lfSetType p F t) := by
  obtain ⟨hty, hfc, hs1, hs2⟩ := lfDesign_keeps p { F with ty := t, s1 := Fp.zero, s2 := Fp.zero }
  exact ⟨hty, hfc, hs1, hs2, designed_lfDesign p _⟩

/-! ### LF_Step -/

theorem lfStep_lpf1 {F : Loss} (h : F.ty = .lpf1) (x : F32) :
    let y := Fp.add (Fp.mul F.b0 x) F.s1
    lfStep F x = ({ F with s1 := Fp.sub (Fp.mul F.b1 x) (Fp.mul F.a1 y) }, y) := by
  simp only [lfStep, h]

theorem lfStep_lpf2 {F : Loss} (h : F.ty = .lpf2) (x : F32) :
    let y := Fp.add (Fp.mul F.b0 x) F.s1
    lfStep F x = ({ F with
      s1 := Fp.add (Fp.sub (Fp.mul F.b1 x) (Fp.mul F.a1 y)) F.s2
      s2 := Fp.sub (Fp.mul F.b2 x) (Fp.mul F.a2 y) }, y) := by
  simp only [lfStep, h]

/-! ### LF_PhaseDelay and DP_PhaseDelay -/

/-- A NaN is not above 0, so one comparison decides. -/
theorem notPositive_eq (x : F32) : notPositive x = !Fp.lt Fp.zero x := by
  rw [notPositive]
  cases hn : Fp.isNaN x
  · rfl
  · rw [lt_of_isNaN (.inr hn)]
    rfl

theorem not_notPositive {x : F32} (h : Fp.lt Fp.zero x = true) : ¬notPositive x = true := by simp [notPositive_eq, h]

theorem lfPhaseDelay_of_not_positive (p : Config.Params) (F : Loss) {x : F32} (h : Fp.lt Fp.zero x = false) :
    lfPhaseDelay p F x = Fp.zero :=
  if_pos (by simp [notPositive_eq, h])

theorem dpPhaseDelay_of_bypass_or_not_positive (p : Config.Params) (D : Dispersion) {x : F32}
    (h : D.bypass = true ∨ Fp.lt Fp.zero x = false) : dpPhaseDelay p D x = Fp.zero :=
  if_pos (by simpa [notPositive_eq] using h)

section
variable (p : Config.Params) {x : F32} (hx : Fp.lt Fp.zero x = true)
include hx

theorem lfPhaseDelay_lpf1 {F : Loss} (h : F.ty = .lpf1) :
    let w := angular p.fs x
    let c := Fp.cos32 p.fns w
    let sn := Fp.sin32 p.fns w
    lfPhaseDelay p F x = phaseOver p.fns (Fp.add F.b0 (Fp.mul F.b1 c)) (Fp.neg (Fp.mul F.b1 sn))
      (Fp.add Fp.one (Fp.mul F.a1 c)) (Fp.neg (Fp.mul F.a1 sn)) w := by
  rw [lfPhaseDelay, if_neg (not_notPositive hx), h]
  rfl

theorem lfPhaseDelay_lpf2 {F : Loss} (h : F.ty = .lpf2) :
    let w := angular p.fs x
    let w2 := Fp.mul Fp.two w
    let c := Fp.cos32 p.fns w
    let sn := Fp.sin32 p.fns w
    let c2 := Fp.cos32 p.fns w2
    let s2 := Fp.sin32 p.fns w2
    lfPhaseDelay p F x = phaseOver p.fns (Fp.add (Fp.add F.b0 (Fp.mul F.b1 c)) (Fp.mul F.b2 c2))
      (Fp.neg (Fp.add (Fp.mul F.b1 sn) (Fp.mul F.b2 s2)))
      (Fp.add (Fp.add Fp.one (Fp.mul F.a1 c)) (Fp.mul F.a2 c2))
      (Fp.neg (Fp.add (Fp.mul F.a1 sn) (Fp.mul F.a2 s2))) w := by
  rw [lfPhaseDelay, if_neg (not_notPositive hx), h]
  rfl

theorem dpPhaseDelay_of_positive {D : Dispersion} (h : D.bypass = false) :
    let w := angular p.fs x
    let c := Fp.cos32 p.fns w
    let sn := Fp.sin32 p.fns w
    dpPhaseDelay p D x = Fp.mul (Fp.ofInt D.m) (phaseOver p.fns (Fp.add D.alpha c) (Fp.neg sn)
      (Fp.add Fp.one (Fp.mul D.alpha c)) (Fp.neg (Fp.mul D.alpha sn)) w) := by
  rw [dpPhaseDelay, if_neg (by simp [h, not_notPositive hx])]
  rfl

end

end Sys2Proof.Machine

end

section
/-! The commands of UNIT 5 and DISP_PHASEDELAY (43_loss R510–R513, 44_dispersion R563), behind the mode gate and the check
of FAM. -/

namespace Sys2Proof.Machine

open Sys2Proof.Claims

theorem exec_onFamily_refused {i : Instr} {s : State} {fam : Nat} {pass : Family → State}
    (he : exec i s = .next (s.diagnostic (s.onFamily fam pass))) (hm : s.mode = .stop) (hfam : 3 ≤ fam) :
    exec i s = .next (refused s .illegalArg) := by
  rw [he, State.diagnostic_stop hm, State.onFamily_none (familyOf_eq_none.2 hfam)]
  rfl

section
variable {s : State} {fam : Nat} {f : Family} (hm : s.mode = .stop) (hf : familyOf fam = some f)
include hm hf

theorem exec_lossSetCutoff (v : Fin 8) (x : F32) :
    let F := lfSetCutoff s.cfg.val (lossKind f) (s.voice f v).loss x
    exec (.lossSetCutoff fam v x) s = .next (completed (s.setVoice f v { s.voice f v with loss := F }) F.fc) :=
  exec_onFamily_passed (i := .lossSetCutoff fam v x) rfl hm hf

theorem exec_lossSetType (hr : f ≠ .reed) (v : Fin 8) (ty : LossType) : exec (.lossSetType fam v ty) s =
    .next (completed (s.setVoice f v { s.voice f v with loss := lfSetType s.cfg.val (s.voice f v).loss ty }) 0#32) := by
  rw [exec_onFamily_passed (i := .lossSetType fam v ty) rfl hm hf, if_neg hr]
  rfl

theorem exec_lossSetType_reed (hr : f = .reed) (v : Fin 8) (ty : LossType) :
    exec (.lossSetType fam v ty) s = .next (refused s .illegalArg) := by
  rw [exec_onFamily_passed (i := .lossSetType fam v ty) rfl hm hf, if_pos hr]
  rfl

theorem exec_lossProcess {v : Fin 8} {x y : F32} {F : Loss} (h : lfStep (s.voice f v).loss x = (F, y)) :
    exec (.lossProcess fam v x) s = .next (completed (s.setVoice f v { s.voice f v with loss := F }) y) := by
  rw [exec_onFamily_passed (i := .lossProcess fam v x) rfl hm hf, h]
  rfl

theorem exec_lossPhaseDelay {v : Fin 8} {x r : F32} (h : lfPhaseDelay s.cfg.val (s.voice f v).loss x = r) :
    exec (.lossPhaseDelay fam v x) s = .next (completed s r) := by
  rw [exec_onFamily_passed (i := .lossPhaseDelay fam v x) rfl hm hf, h]
  rfl

theorem exec_dispPhaseDelay {v : Fin 8} {x r : F32} (h : dpPhaseDelay s.cfg.val (s.voice f v).disp x = r) :
    exec (.dispPhaseDelay fam v x) s = .next (completed s r) := by
  rw [exec_onFamily_passed (i := .dispPhaseDelay fam v x) rfl hm hf, h]
  rfl

end

/-- LOSS_SETTYPE has a second operand to refuse: a Reed filter has no type. -/
theorem guarded_lossSetType (fam : Nat) (v : Fin 8) (ty : LossType) (s : State) : Guarded (.lossSetType fam v ty) s := by
  refine guarded_of rfl fun hm h => ?_
  rcases h with hfam | rfl
  · exact exec_onFamily_refused (i := .lossSetType fam v ty) rfl hm hfam
  · exact exec_lossSetType_reed hm familyOf_one rfl v ty

end Sys2Proof.Machine

open Sys2Proof Sys2Proof.Machine

/-- Settles O32: each setting is a redesign of the filter with the new cutoff or type. -/
theorem lossSettings : Obligations.LossSettings := by
  refine fun s fam f v x ty => ⟨guarded_onFamily rfl rfl id, guarded_lossSetType fam v ty s, fun hm hf => ?_⟩
  refine ⟨⟨_, exec_lossSetCutoff hm hf v x, ?_⟩, fun hr => ⟨_, exec_lossSetType hm hf hr v ty, ?_⟩, fun hr => ?_⟩
  · exact cutoffSet_lfSetCutoff s.cfg.val f _ x
  · exact typeSet_lfSetType s.cfg.val _ ty
  · exact exec_lossSetType_reed hm hf hr v ty

/-- Settles O33: LF_Step by the type of the filter. -/
theorem lossProcess : Obligations.LossProcess := by
  refine fun s fam f v x => ⟨guarded_onFamily rfl rfl id, fun hm hf => ⟨fun h => ?_, fun h => ?_⟩⟩
  · exact exec_lossProcess hm hf (lfStep_lpf1 h x)
  · exact exec_lossProcess hm hf (lfStep_lpf2 h x)

/-- Settles O34: the branches of LF_PhaseDelay and DP_PhaseDelay. -/
theorem phaseDelays : Obligations.PhaseDelays := by
  refine fun s fam f v x => ⟨guarded_onFamily rfl rfl id, guarded_onFamily rfl rfl id, fun hm hf => ?_⟩
  refine ⟨fun hx => ⟨?_, ?_⟩, fun hx h => ?_, fun hx h => ?_, fun hb => ?_, fun hx hb => ?_⟩
  · exact exec_lossPhaseDelay hm hf (lfPhaseDelay_of_not_positive _ _ hx)
  · exact exec_dispPhaseDelay hm hf (dpPhaseDelay_of_bypass_or_not_positive _ _ (.inr hx))
  · exact exec_lossPhaseDelay hm hf (lfPhaseDelay_lpf1 _ hx h)
  · exact exec_lossPhaseDelay hm hf (lfPhaseDelay_lpf2 _ hx h)
  · exact exec_dispPhaseDelay hm hf (dpPhaseDelay_of_bypass_or_not_positive _ _ (.inl hb))
  · exact exec_dispPhaseDelay hm hf (dpPhaseDelay_of_positive _ hx hb)

end

section
/-! The dispersion chain (44_dispersion R551–R554): its stages run in order, and the two settings. -/

namespace Sys2Proof.Machine

open Sys2Proof.Claims

/-! ### DP_Step -/

/-- The chain and its running value after the first `n` stages. -/
def stagesRun (D : Dispersion) (x : F32) (n : Nat) : Dispersion × F32 := (dpStages n).foldl dpStage (D, x)

theorem dpStep_of_bypass {D : Dispersion} (h : D.bypass = true) (x : F32) : dpStep D x = (D, x) := if_pos h

theorem dpStep_of_not_bypass {D : Dispersion} (h : D.bypass = false) (x : F32) : dpStep D x = stagesRun D x D.m :=
  if_neg (by simp [h])

/-- The stages write the cells only. -/
theorem dpFold_fst (ks : List (Fin 4)) (Dx : Dispersion × F32) :
    (ks.foldl dpStage Dx).1 = { Dx.1 with vs := (ks.foldl dpStage Dx).1.vs } := by
  induction ks generalizing Dx with
  | nil => rfl
  | cons k ks ih =>
    rw [List.foldl_cons, ih]
    rfl

theorem stagesRun_fst (D : Dispersion) (x : F32) (n : Nat) :
    (stagesRun D x n).1 = { D with vs := (stagesRun D x n).1.vs } := dpFold_fst _ _

theorem stagesRun_alpha (D : Dispersion) (x : F32) (n : Nat) : (stagesRun D x n).1.alpha = D.alpha := by
  rw [stagesRun_fst]

theorem dpStages_succ : ∀ k : Fin 4, dpStages (k + 1) = dpStages k ++ [k] := by decide

theorem stagesRun_succ (D : Dispersion) (x : F32) (k : Fin 4) :
    stagesRun D x (k + 1) = dpStage (stagesRun D x k) k := by
  rw [stagesRun, dpStages_succ, List.foldl_append]
  rfl

theorem dpStage_cell_same (Dx : Dispersion × F32) (k : Fin 4) :
    (dpStage Dx k).1.vs[k] = Fp.sub Dx.2 (Fp.mul Dx.1.alpha Dx.1.vs[k]) :=
  Vector.getElem_set_self _

theorem dpStage_cell_other (Dx : Dispersion × F32) {j k : Fin 4} (h : j ≠ k) : (dpStage Dx j).1.vs[k] = Dx.1.vs[k] :=
  Vector.getElem_set_ne j.isLt k.isLt (Fin.val_ne_of_ne h)

/-- A stage answers v + alpha · v', where v is its cell before and v' its cell after. -/
theorem dpStage_snd (Dx : Dispersion × F32) (k : Fin 4) :
    (dpStage Dx k).2 = Fp.add Dx.1.vs[k] (Fp.mul Dx.1.alpha (dpStage Dx k).1.vs[k]) := by
  rw [dpStage_cell_same]
  rfl

section
variable (D : Dispersion) (x : F32) (k : Fin 4)

theorem stagesRun_cell_unused {n : Nat} (h : n ≤ k) : (stagesRun D x n).1.vs[k] = D.vs[k] := by
  induction n with
  | zero => rfl
  | succ n ih =>
    have hn : n < 4 := by omega
    rw [stagesRun_succ D x ⟨n, hn⟩, dpStage_cell_other _ (Fin.ne_of_lt h)]
    exact ih (by omega)

theorem stagesRun_succ_cell :
    (stagesRun D x (k + 1)).1.vs[k] = Fp.sub (stagesRun D x k).2 (Fp.mul D.alpha D.vs[k]) := by
  rw [stagesRun_succ, dpStage_cell_same, stagesRun_alpha, stagesRun_cell_unused D x k le_rfl]

/-- A cell is written by its own stage only. -/
theorem stagesRun_cell_kept {n : Nat} (h : k + 1 ≤ n) (hn : n ≤ 4) :
    (stagesRun D x n).1.vs[k] = (stagesRun D x (k + 1)).1.vs[k] := by
  induction n, h using Nat.le_induction with
  | base => rfl
  | succ n hk ih =>
    rw [stagesRun_succ D x ⟨n, hn⟩, dpStage_cell_other _ (Fin.ne_of_gt hk)]
    exact ih (by omega)

theorem stagesRun_succ_snd :
    (stagesRun D x (k + 1)).2 = Fp.add D.vs[k] (Fp.mul D.alpha (stagesRun D x (k + 1)).1.vs[k]) := by
  rw [stagesRun_succ, dpStage_snd, stagesRun_alpha, stagesRun_cell_unused D x k le_rfl]

end

/-! ### DP_Recompute, DP_SetGD and DP_SetStages -/

theorem dpRecompute_of_bypass {D : Dispersion} (h : D.m = 0 ∨ Fp.lt Fp.zero D.gd = false) :
    dpRecompute D = { D with bypass := true, alpha := Fp.zero } :=
  if_pos (by simpa using h)

theorem dpRecompute_of_active {D : Dispersion} (h : ¬(D.m = 0 ∨ Fp.lt Fp.zero D.gd = false)) :
    dpRecompute D = { D with
      bypass := false
      alpha := Fp.div (Fp.sub Fp.one (Fp.div D.gd (Fp.ofInt D.m))) (Fp.add Fp.one (Fp.div D.gd (Fp.ofInt D.m))) } :=
  if_neg (by simpa using h)

/-- DP_Recompute writes bypass and alpha only, as R553 gives them. -/
theorem dispersionSet_dpRecompute (D : Dispersion) : DispersionSet D D.m D.gd (dpRecompute D) := by
  by_cases h : D.m = 0 ∨ Fp.lt Fp.zero D.gd = false
  · rw [dpRecompute_of_bypass h]
    exact ⟨rfl, rfl, rfl, by rw [Recomputed, if_pos h]; exact ⟨rfl, rfl⟩⟩
  · rw [dpRecompute_of_active h]
    exact ⟨rfl, rfl, rfl, by rw [Recomputed, if_neg h]; exact ⟨rfl, rfl⟩⟩

theorem dispersionSet_dpSetGD (D : Dispersion) (g : F32) : DispersionSet D D.m (keptGroupDelay g) (dpSetGD D g) :=
  dispersionSet_dpRecompute { D with gd := keptGroupDelay g }

theorem dispersionSet_dpSetStages (D : Dispersion) (m : Nat) : DispersionSet D m D.gd (dpSetStages D m) :=
  dispersionSet_dpRecompute { D with m := m }

end Sys2Proof.Machine

end

section
/-! DISP_SETGD, DISP_SETSTAGES and DISP_PROCESS (44_dispersion R560–R562), behind the mode gate and the check of FAM. -/

namespace Sys2Proof.Machine

open Sys2Proof.Claims

theorem PerFamily.set_get {α : Type} (p : PerFamily α) (f : Family) : p.set f (p.get f) = p := by cases f <;> rfl

/-- Writing a voice back changes nothing. -/
theorem State.setVoice_voice (s : State) (f : Family) (v : Fin 8) : s.setVoice f v (s.voice f v) = s := by
  have hbank : (s.voices.get f).set v (s.voice f v) = s.voices.get f := Vector.set_getElem_self _
  rw [State.setVoice, hbank, PerFamily.set_get]

section
variable {s : State} {fam : Nat} {f : Family} (hm : s.mode = .stop) (hf : familyOf fam = some f)
include hm hf

theorem exec_dispSetGD (v : Fin 8) (g : F32) :
    let D := dpSetGD (s.voice f v).disp g
    exec (.dispSetGD fam v g) s = .next (completed (s.setVoice f v { s.voice f v with disp := D }) D.alpha) :=
  exec_onFamily_passed (i := .dispSetGD fam v g) rfl hm hf

theorem exec_dispSetStages (v : Fin 8) {m : Nat} (h : m ≤ 4) :
    let D := dpSetStages (s.voice f v).disp m
    exec (.dispSetStages fam v m) s = .next (completed (s.setVoice f v { s.voice f v with disp := D }) D.alpha) := by
  rw [exec_onFamily_passed (i := .dispSetStages fam v m) rfl hm hf, if_neg h.not_gt]
  rfl

theorem exec_dispSetStages_tooMany (v : Fin 8) {m : Nat} (h : 5 ≤ m) :
    exec (.dispSetStages fam v m) s = .next (refused s .illegalArg) := by
  rw [exec_onFamily_passed (i := .dispSetStages fam v m) rfl hm hf, if_pos (Nat.lt_of_succ_le h)]
  rfl

theorem exec_dispProcess {v : Fin 8} {x y : F32} {D : Dispersion} (h : dpStep (s.voice f v).disp x = (D, y)) :
    exec (.dispProcess fam v x) s = .next (completed (s.setVoice f v { s.voice f v with disp := D }) y) := by
  rw [exec_onFamily_passed (i := .dispProcess fam v x) rfl hm hf, h]
  rfl

theorem exec_dispProcess_bypass {v : Fin 8} (h : (s.voice f v).disp.bypass = true) (x : F32) :
    exec (.dispProcess fam v x) s = .next (completed s x) := by
  rw [exec_dispProcess hm hf (dpStep_of_bypass h x), State.setVoice_voice]

theorem exec_dispProcess_stages {v : Fin 8} (h : (s.voice f v).disp.bypass = false) (x : F32) :
    let D := (s.voice f v).disp
    exec (.dispProcess fam v x) s = .next (completed (s.setVoice f v
      { s.voice f v with disp := { D with vs := (stagesRun D x D.m).1.vs } }) (stagesRun D x D.m).2) :=
  exec_dispProcess hm hf ((dpStep_of_not_bypass h x).trans (Prod.ext (stagesRun_fst _ x _) rfl))

end

/-- DISP_SETSTAGES has a second operand to refuse: a chain has at most 4 stages. -/
theorem guarded_dispSetStages (fam : Nat) (v : Fin 8) (m : Nat) (s : State) : Guarded (.dispSetStages fam v m) s := by
  refine guarded_of rfl fun hm h => ?_
  cases hf : familyOf fam with
  | none => exact exec_onFamily_refused (i := .dispSetStages fam v m) rfl hm (familyOf_eq_none.1 hf)
  | some f =>
    have hfam : ¬3 ≤ fam := familyOf_eq_none.not.1 (by simp [hf])
    exact exec_dispSetStages_tooMany hm hf v (h.resolve_left hfam)

end Sys2Proof.Machine

open Sys2Proof Sys2Proof.Machine

/-- Settles O36: the cells and running values after each number of stages are those of the stages run in order. -/
theorem dispProcess : Obligations.DispProcess := by
  refine fun s fam f v x => ⟨guarded_onFamily rfl rfl id, fun hm hf => ⟨fun h => ?_, fun h h4 => ?_⟩⟩
  · exact exec_dispProcess_bypass hm hf h x
  · refine ⟨_, fun n => (stagesRun (s.voice f v).disp x n).2, exec_dispProcess_stages hm hf h x, rfl, fun k => ?_⟩
    refine ⟨fun hk => ?_, stagesRun_cell_unused _ x k⟩
    rw [stagesRun_cell_kept _ x k hk h4]
    exact ⟨stagesRun_succ_cell _ x k, stagesRun_succ_snd _ x k⟩

/-- Settles O35: each setting is DP_Recompute after GD or M is set. -/
theorem dispersionSettings : Obligations.DispersionSettings := by
  refine fun s fam f v g m => ⟨guarded_onFamily rfl rfl id, guarded_dispSetStages fam v m s, fun hm hf => ?_⟩
  refine ⟨⟨_, exec_dispSetGD hm hf v g, ?_⟩, fun h4 => ⟨_, exec_dispSetStages hm hf v h4, ?_⟩, fun h5 => ?_⟩
  · exact dispersionSet_dpSetGD _ g
  · exact dispersionSet_dpSetStages _ m
  · exact exec_dispSetStages_tooMany hm hf v h5

end

section
/-! The noise generator (45_voices R600–R602): its two commands act on String voices only, and its output is the state as a
signed number over 2^31, rounded twice. -/

namespace Sys2Proof.Arith

open Sys2Proof Sys2Proof.Claims

/-- Rounding keeps a bound that is itself a finite number, on either side. -/
theorem abs_value_le_of_roundsTo {x : ℚ} {r z : F32} (h : RoundsTo x r) (hz : finite z) (hx : |x| ≤ value z) :
    finite r ∧ |value r| ≤ value z := by
  obtain ⟨hnan, -, hinf, hnear⟩ := h
  have hfin : Fp.isInf r = false := by
    rw [← Bool.not_eq_true, hinf, not_le]
    calc |x| ≤ |value z| := hx.trans (le_abs_self _)
      _ = gridValue (mag z) := by rw [value_eq_signed, abs_signed, abs_of_nonneg (gridValue_nonneg _)]
      _ < _ := gridValue_lt_overflow ((finite_iff z).1 hz)
  obtain ⟨hlo, hhi⟩ := abs_le.1 hx
  refine ⟨⟨hnan, hfin⟩, abs_le.2 ⟨?_, ?_⟩⟩
  · have hdist := (hnear hfin (Fp.neg z) ((finite_neg z).2 hz)).1
    rw [value_neg, abs_of_nonpos (sub_nonpos.2 hlo)] at hdist
    linarith [neg_abs_le (value r - x)]
  · have hdist := (hnear hfin z hz).1
    rw [abs_of_nonneg (sub_nonneg.2 hhi)] at hdist
    linarith [le_abs_self (value r - x)]

theorem value_of_parts {x : F32} {s e : ℤ} (hsig : Fp.signedSignificand x = s) (hexp : Fp.exponent x = e) :
    value x = s * 2 ^ e := by rw [value, hsig, hexp]

theorem finite_value_one : finite Fp.one ∧ value Fp.one = 1 := by
  refine ⟨by unfold finite; decide, ?_⟩
  rw [value_of_parts (s := 2 ^ 23) (e := -23) (by decide) (by decide)]
  norm_num

theorem finite_value_twoPowMinus31 : finite Fp.twoPowMinus31 ∧ value Fp.twoPowMinus31 = 1 / 2 ^ 31 := by
  refine ⟨by unfold finite; decide, ?_⟩
  rw [value_of_parts (s := 2 ^ 23) (e := -54) (by decide) (by decide)]
  norm_num

/-- 2^31, the greatest magnitude of a signed word. -/
def twoPow31 : F32 := 0x4F000000#32

theorem finite_value_twoPow31 : finite twoPow31 ∧ value twoPow31 = 2 ^ 31 := by
  refine ⟨by unfold finite; decide, ?_⟩
  rw [value_of_parts (s := 2 ^ 23) (e := 8) (by decide) (by decide)]
  norm_num

theorem minusOne_eq_neg : Fp.minusOne = Fp.neg Fp.one := by decide

theorem between_minusOne_one {x : F32} (hx : finite x) (h : |value x| ≤ 1) :
    Fp.le Fp.minusOne x = true ∧ Fp.le x Fp.one = true := by
  obtain ⟨hone, hval⟩ := finite_value_one
  rw [minusOne_eq_neg, le_iff_value ((finite_neg _).2 hone) hx, le_iff_value hx hone, value_neg, hval]
  exact abs_le.1 h

end Sys2Proof.Arith

namespace Sys2Proof.Machine

open Sys2Proof.Claims Sys2Proof.Arith

/-! ### The two commands -/

section
variable {i : Instr} {s pass : State} {fam : Nat} (he : exec i s = .next (s.diagnostic (s.onStringFamily fam pass)))
  (hm : s.mode = .stop)
include he hm

theorem exec_onStringFamily_passed (hf : fam = 0) : exec i s = .next pass := by
  rw [he, State.diagnostic_stop hm, hf, State.onStringFamily_string]

theorem exec_onStringFamily_refused (hf : fam ≠ 0) : exec i s = .next (refused s .illegalArg) := by
  rw [he, State.diagnostic_stop hm, State.onStringFamily_other hf]
  rfl

end

theorem guarded_onStringFamily {i : Instr} {s pass : State} {fam : Nat} (hi : i.isDiagnostic = true)
    (he : exec i s = .next (s.diagnostic (s.onStringFamily fam pass))) (ha : argRefused s i → fam ≠ 0) : Guarded i s :=
  guarded_of hi fun hm h => exec_onStringFamily_refused he hm (ha h)

/-- The generator's step on words is that of the rule on numbers, mod 2^32 (R600). -/
theorem nzAdvance_eq_ofNat (s : Word) : nzAdvance s = BitVec.ofNat 32 (s.toNat * 1664525 + 1013904223) := by
  rw [nzAdvance, BitVec.ofNat_add, BitVec.ofNat_mul, BitVec.ofNat_toNat, BitVec.setWidth_eq]

theorem exec_noiseNext {s : State} (hm : s.mode = .stop) (v : Fin 8) :
    let n := BitVec.ofNat 32 ((s.voice .string v).noise.toNat * 1664525 + 1013904223)
    exec (.noiseNext 0 v) s =
      .next (completed (s.setVoice .string v { s.voice .string v with noise := n }) (nzOutput n)) := by
  rw [exec_onStringFamily_passed (i := .noiseNext 0 v) rfl hm rfl, nzAdvance_eq_ofNat]
  rfl

/-! ### The range of the output -/

/-- f32 of a signed word does not leave the range of signed words. -/
theorem abs_value_ofInt_toInt_le (n : Word) : finite (Fp.ofInt n.toInt) ∧ |value (Fp.ofInt n.toInt)| ≤ 2 ^ 31 := by
  obtain ⟨hfin, hval⟩ := finite_value_twoPow31
  have hn : |(n.toInt : ℚ)| ≤ 2 ^ 31 :=
    abs_le.2 ⟨by exact_mod_cast BitVec.le_toInt n, by exact_mod_cast BitVec.toInt_lt.le⟩
  rw [← hval] at hn ⊢
  exact abs_value_le_of_roundsTo (arithmeticRoundsOnce.2.1 n.toInt) hfin hn

theorem nzOutput_between (n : Word) :
    Fp.le Fp.minusOne (nzOutput n) = true ∧ Fp.le (nzOutput n) Fp.one = true := by
  obtain ⟨hn, hle⟩ := abs_value_ofInt_toInt_le n
  obtain ⟨hscale, hval⟩ := finite_value_twoPowMinus31
  have hprod : |value (Fp.ofInt n.toInt) * value Fp.twoPowMinus31| ≤ value Fp.one := by
    rw [hval, abs_mul, finite_value_one.2, abs_of_pos (by norm_num : (0 : ℚ) < 1 / 2 ^ 31)]
    linarith
  obtain ⟨hout, hbound⟩ := abs_value_le_of_roundsTo (roundsTo_mul hn hscale) finite_value_one.1 hprod
  exact between_minusOne_one hout (finite_value_one.2 ▸ hbound)

/-- The 64 greatest signed states round up to 2^31: from the tie at 2^31 − 64 on, whose even neighbour is 2^31. -/
theorem ofInt_of_greatest {n : Word} (hlo : 0x7FFFFFC0 ≤ n.toNat) (hhi : n.toNat ≤ 0x7FFFFFFF) :
    Fp.ofInt n.toInt = twoPow31 := by
  have hint : n.toInt = n.toNat := BitVec.toInt_eq_toNat_of_lt (by omega)
  have hlog : Nat.log2 n.toNat = 30 := (Nat.log2_eq_iff (by omega)).2 ⟨by omega, by omega⟩
  have hulp : Fp.ulpExponent n.toNat 0 = 7 := by rw [Fp.ulpExponent, hlog]; rfl
  have hrne : Fp.shiftRne n.toNat 7 = 2 ^ 24 := by
    rw [Fp.shiftRne, if_pos (by omega)]
    omega
  have hround : Fp.round false n.toNat 0 = twoPow31 := by
    rw [Fp.round, if_neg (by omega), hulp]
    exact congrArg (fun q => Fp.pack false (156 * 2 ^ 23 + q)) hrne
  rw [hint, Fp.ofInt, Int.natAbs_natCast, decide_eq_false (by omega), hround]

theorem nzOutput_of_greatest {n : Word} (hlo : 0x7FFFFFC0 ≤ n.toNat) (hhi : n.toNat ≤ 0x7FFFFFFF) :
    nzOutput n = Fp.one := by
  rw [nzOutput, ofInt_of_greatest hlo hhi]
  decide

end Sys2Proof.Machine

open Sys2Proof Sys2Proof.Machine

/-- Settles O37: behind the two checks, the seed is stored, and the generator's step is that of the rule. -/
theorem noiseCommands : Obligations.NoiseCommands := by
  refine fun s fam v seed => ⟨guarded_onStringFamily rfl rfl id, guarded_onStringFamily rfl rfl id, fun hm => ?_⟩
  refine ⟨exec_onStringFamily_passed (i := .noiseSeed 0 v seed) rfl hm rfl, exec_noiseNext hm v, fun hf => ⟨?_, ?_⟩⟩
  · exact exec_onStringFamily_refused (i := .noiseSeed fam v seed) rfl hm hf
  · exact exec_onStringFamily_refused (i := .noiseNext fam v) rfl hm hf

/-- Settles O38: both roundings are monotone, the 64 greatest states round to 2^31, and the least one is exact. -/
theorem noiseRange : Obligations.NoiseRange := by
  intro n
  obtain ⟨hlo, hhi⟩ := nzOutput_between n
  refine ⟨hlo, hhi, nzOutput_of_greatest, ?_⟩
  rintro rfl
  decide

end

section
/-! The sample steps of the voices (45_voices R620–R623, R641): an equation for the step of a usable voice of each family. -/

namespace Sys2Proof.Machine

open Sys2Proof.Claims

/-! ### The steps of usable voices -/

theorem excitation_during_burst (E : VoiceEnv) {V : Voice} (h : V.n < V.burstLen) :
    let n := nzAdvance V.noise
    let click := if V.n < V.p then Fp.one else Fp.minusOne
    let c := liveF E .strColor
    excitation E V = ({ V with noise := n, n := V.n + 1 },
      Fp.mul V.amp (Fp.add (Fp.mul (Fp.sub Fp.one c) click) (Fp.mul c (nzOutput n)))) := if_pos h

theorem excitation_after_burst (E : VoiceEnv) {V : Voice} (h : V.burstLen ≤ V.n) : excitation E V = (V, Fp.zero) :=
  if_neg h.not_gt

section
variable (E : VoiceEnv) {V W : Voice} {d : DelayPool} {out : F32}

theorem stringStep_eq {l : Nat} (h0 : V.line0 = some l) (hf : FilteredBy V (d.getLast E.cfg.cap l) W out) :
    stringStep E V d = ⟨d.getLast E.cfg.cap l, (excitation E W).1,
      d.push E.cfg.cap l (Fp.add (Fp.mul V.decay out) (excitation E W).2)⟩ := by
  obtain ⟨rfl, rfl⟩ := hf
  cases V
  cases h0
  rfl

theorem reedStep_eq {l : Nat} (h0 : V.line0 = some l) (hf : FilteredBy V (d.getLast E.cfg.cap l) W out) :
    let pm := envStep V.env (envTarget V (liveF E .reedPressure)) E.envReed
    let delta := Fp.sub pm (Fp.neg (Fp.mul (liveF E .reedLoopGain) out))
    reedStep E V d = ⟨d.getLast E.cfg.cap l, { W with env := pm },
      d.push E.cfg.cap l (Fp.sub pm (Fp.mul (reedReflection E delta) delta))⟩ := by
  obtain ⟨rfl, rfl⟩ := hf
  cases V
  cases h0
  rfl

theorem bowStep_eq {nut brg : Nat} (h0 : V.line0 = some nut) (h1 : V.line1 = some brg)
    (hf : FilteredBy V (d.getLast E.cfg.cap brg) W out) :
    let vb := envStep V.env (envTarget V (liveF E .bowSpeed)) E.envBow
    let bref := Fp.neg (Fp.mul (liveF E .bowLoopGain) out)
    let nref := Fp.neg (d.getLast E.cfg.cap nut)
    let dv := Fp.sub vb (Fp.add bref nref)
    let nv := Fp.mul dv (bowReflection E dv)
    bowStep E V d = ⟨d.getLast E.cfg.cap brg, { W with env := vb },
      (d.push E.cfg.cap nut (Fp.add bref nv)).push E.cfg.cap brg (Fp.add nref nv)⟩ := by
  obtain ⟨rfl, rfl⟩ := hf
  cases V
  cases h0
  cases h1
  rfl

end

/-- A voice of any family with a missing line is silent and stays as it is (R623). -/
theorem voiceStep_of_missing_line (E : VoiceEnv) {f : Family} {V : Voice} (d : DelayPool)
    (h : ∃ k ∈ lineSlots f, V.line k = none) : voiceStep E f V d = ⟨Fp.zero, V, d⟩ := by
  obtain ⟨note, ch, vel, amp, sustaining, peak, line0, line1⟩ := V
  obtain ⟨k, hk, hnone⟩ := h
  cases f with
  | string | reed =>
    obtain rfl : k = 0 := List.mem_singleton.1 hk
    obtain rfl : line0 = none := hnone
    rfl
  | bow =>
    obtain rfl | rfl : k = 0 ∨ k = 1 := List.mem_pair.1 hk
    · obtain rfl : line0 = none := hnone
      rfl
    · obtain rfl : line1 = none := hnone
      cases line0 <;> rfl

end Sys2Proof.Machine

open Sys2Proof Sys2Proof.Machine

/-- Settles O47: the silent step of a voice with a missing line, and the step of a usable voice by family. -/
theorem voiceSteps : Obligations.VoiceSteps := by
  refine fun E V W d out => ⟨fun f h => voiceStep_of_missing_line E d h, fun l h0 hf => ?_, fun l h0 hf => ?_,
    fun nut brg h0 h1 hf => ?_⟩
  · refine ⟨fun h => ?_, fun h => ?_⟩
    · have hW : W.n < W.burstLen := by rwa [hf.1]
      rw [voiceStep, stringStep_eq E h0 hf, excitation_during_burst E hW, hf.1]
    · have hW : W.burstLen ≤ W.n := by rwa [hf.1]
      rw [voiceStep, stringStep_eq E h0 hf, excitation_after_burst E hW]
  · exact reedStep_eq E h0 hf
  · exact bowStep_eq E h0 h1 hf

end

section
/-! The block of a voice (45_voices R626): the steps do not see the peak, so it can be read off the samples afterwards. -/

namespace Sys2Proof.Machine

open Sys2Proof.Claims Sys2Proof.Arith

/-! ### The peak and sustaining are bystanders of the steps -/

/-- A step's outcome with the voice's peak replaced. -/
def StepOut.withPeak (r : StepOut) (p : F32) : StepOut := ⟨r.out, { r.voice with peak := p }, r.delay⟩

theorem excitation_withPeak (E : VoiceEnv) (V : Voice) (p : F32) :
    excitation E { V with peak := p } = ({ (excitation E V).1 with peak := p }, (excitation E V).2) := by
  rcases Nat.lt_or_ge V.n V.burstLen with h | h
  · rw [excitation_during_burst E h, excitation_during_burst E (V := { V with peak := p }) h]
  · rw [excitation_after_burst E h, excitation_after_burst E (V := { V with peak := p }) h]

theorem stringStep_withPeak (E : VoiceEnv) (V : Voice) (d : DelayPool) (p : F32) :
    stringStep E { V with peak := p } d = (stringStep E V d).withPeak p := by
  obtain h0 | ⟨l, h0⟩ := Option.eq_none_or_eq_some V.line0
  · cases V
    cases h0
    rfl
  · rw [stringStep_eq E (V := { V with peak := p }) (W := { (loopFilter V (d.getLast E.cfg.cap l)).1 with peak := p }) h0
      ⟨rfl, rfl⟩, stringStep_eq E (W := (loopFilter V (d.getLast E.cfg.cap l)).1) h0 ⟨rfl, rfl⟩, excitation_withPeak]
    rfl

theorem voiceStep_withPeak (E : VoiceEnv) (f : Family) (V : Voice) (d : DelayPool) (p : F32) :
    voiceStep E f { V with peak := p } d = (voiceStep E f V d).withPeak p := by
  obtain ⟨note, ch, vel, amp, sustaining, peak, line0, line1⟩ := V
  cases f with
  | string => exact stringStep_withPeak E _ d p
  | reed => cases line0 <;> rfl
  | bow => cases line0 <;> cases line1 <;> rfl

theorem voiceStep_peak (E : VoiceEnv) (f : Family) (V : Voice) (d : DelayPool) :
    (voiceStep E f V d).voice.peak = V.peak :=
  congrArg (·.voice.peak) (voiceStep_withPeak E f V d V.peak)

theorem voiceStep_sustaining (E : VoiceEnv) (f : Family) (V : Voice) (d : DelayPool) :
    (voiceStep E f V d).voice.sustaining = V.sustaining := by
  obtain ⟨note, ch, vel, amp, sustaining, peak, line0, line1⟩ := V
  cases f with
  | string =>
    cases line0 with
    | none => rfl
    | some l =>
      simp only [voiceStep, stringStep, excitation_voice]
      split <;> rfl
  | reed => cases line0 <;> rfl
  | bow => cases line0 <;> cases line1 <;> rfl

/-! ### A block and its peak -/

/-- The peak after one more sample; a NaN does not raise it (R626). -/
def peakOver (p y : F32) : F32 := if Fp.lt p (Fp.abs y) then Fp.abs y else p

theorem raisePeak_eq (V : Voice) (y : F32) : raisePeak V y = { V with peak := peakOver V.peak y } := rfl

theorem stepsOf_withPeak (E : VoiceEnv) (f : Family) (m : Nat) (V : Voice) (d : DelayPool) (p : F32) :
    let r := stepsOf E f m V d
    stepsOf E f m { V with peak := p } d = (r.1, { r.2.1 with peak := p }, r.2.2) := by
  induction m generalizing V d with
  | zero => rfl
  | succ m ih =>
    simp only [stepsOf, voiceStep_withPeak, StepOut.withPeak]
    rw [ih]

theorem stepsOf_sustaining (E : VoiceEnv) (f : Family) (m : Nat) (V : Voice) (d : DelayPool) :
    (stepsOf E f m V d).2.1.sustaining = V.sustaining := by
  induction m generalizing V d with
  | zero => rfl
  | succ m ih => exact (ih _ _).trans (voiceStep_sustaining E f V d)

/-- The sample loop is the steps, with the peak raised over their samples. -/
theorem voiceSamples_eq (E : VoiceEnv) (f : Family) (m : Nat) (V : Voice) (d : DelayPool) :
    let r := stepsOf E f m V d
    voiceSamples E f m V d = ⟨r.1, { r.2.1 with peak := r.1.foldl peakOver V.peak }, r.2.2⟩ := by
  induction m generalizing V d with
  | zero => rfl
  | succ m ih =>
    simp only [voiceSamples, ih, raisePeak_eq, stepsOf_withPeak, voiceStep_peak]
    rfl

/-- The block's voice, like its samples, is that of its steps from the voice as it was. -/
theorem voiceBlock_eq (E : VoiceEnv) (f : Family) (V : Voice) (d : DelayPool) :
    let r := stepsOf E f E.cfg.block V d
    voiceBlock E f V d = ⟨r.1, { r.2.1 with peak := r.1.foldl peakOver Fp.zero }, r.2.2⟩ := by
  simp only [voiceBlock, voiceSamples_eq, stepsOf_withPeak]

theorem fp_le_trans {x y z : F32} (h : Fp.le x y = true) (h' : Fp.le y z = true) : Fp.le x z = true := by
  obtain ⟨hx, -, hxy⟩ := le_iff.1 h
  obtain ⟨-, hz, hyz⟩ := le_iff.1 h'
  exact le_iff.2 ⟨hx, hz, hxy.trans hyz⟩

/-- Raising a peak that is not a NaN: it does not fall, and it reaches a sample that is not a NaN. -/
theorem peakOver_spec {p : F32} (hp : Fp.isNaN p = false) (y : F32) :
    Fp.le p (peakOver p y) = true ∧ (Fp.isNaN y = false → Fp.le (Fp.abs y) (peakOver p y) = true) ∧
    (peakOver p y = p ∨ Fp.isNaN y = false ∧ peakOver p y = Fp.abs y) := by
  unfold peakOver
  cases h : Fp.lt p (Fp.abs y)
  · refine ⟨le_refl_of_not_nan hp, fun hy => ?_, .inl rfl⟩
    rw [lt_eq_not_le hp ((isNaN_abs y).trans hy)] at h
    simpa using h
  · obtain ⟨-, hy, -⟩ := lt_iff.1 h
    exact ⟨le_of_fp_lt h, fun _ => le_refl_of_not_nan hy, .inr ⟨(isNaN_abs y).symm.trans hy, rfl⟩⟩

/-- The greatest magnitude of a list of samples above a floor p, NaNs left out. -/
theorem foldl_peakOver_spec {p : F32} (hp : Fp.isNaN p = false) (ys : List F32) :
    let m := ys.foldl peakOver p
    Fp.le p m = true ∧ (∀ y ∈ ys, Fp.isNaN y = false → Fp.le (Fp.abs y) m = true) ∧
    (m = p ∨ ∃ y ∈ ys, Fp.isNaN y = false ∧ m = Fp.abs y) := by
  induction ys generalizing p with
  | nil => exact ⟨le_refl_of_not_nan hp, nofun, .inl rfl⟩
  | cons y ys ih =>
    obtain ⟨hup, hreach, hfrom⟩ := peakOver_spec hp y
    obtain ⟨-, hq, -⟩ := le_iff.1 hup
    obtain ⟨hup', hreach', hfrom'⟩ := ih hq
    refine ⟨fp_le_trans hup hup', List.forall_mem_cons.2 ⟨fun hy => fp_le_trans (hreach hy) hup', hreach'⟩, ?_⟩
    rcases hfrom' with hkept | ⟨z, hz, hnan, hm⟩
    · rcases hfrom with h | ⟨hnan, h⟩
      · exact .inl (hkept.trans h)
      · exact .inr ⟨y, List.mem_cons_self, hnan, hkept.trans h⟩
    · exact .inr ⟨z, List.mem_cons_of_mem y hz, hnan, hm⟩

end Sys2Proof.Machine

open Sys2Proof Sys2Proof.Machine Sys2Proof.Claims

/-- Settles O49: the steps do not see the peak, so a block is its steps with the peak of their samples. -/
theorem voiceBlockPeak : Obligations.VoiceBlockPeak := by
  intro E f V d
  have hlen := voiceBlock_length E f V d
  rw [voiceBlock_eq] at hlen ⊢
  have hsus := stepsOf_sustaining E f E.cfg.block V d
  obtain ⟨-, hreach, hfrom⟩ := foldl_peakOver_spec (p := Fp.zero) (by decide) (stepsOf E f E.cfg.block V d).1
  refine ⟨rfl, rfl, rfl, hlen, hreach, hfrom, hsus, fun h => ?_⟩
  rw [reportsSilent, hsus, h]
  rfl

end

section
/-! VoiceNoteOn (45_voices R611–R614): the reset that every family shares, the cleared lines, and the tail of each family. -/

namespace Sys2Proof.Machine

open Sys2Proof.Claims

/-! ### The parts that the families share -/

theorem atLeastOne_eq_max (i : Int) : atLeastOne i = max 1 i := by
  unfold atLeastOne
  omega

/-- nutL, with the floor of 1 as a maximum (R614). -/
theorem nutLength_eq (E : VoiceEnv) (rem : F32) :
    let nf := Fp.mul (liveF E .bowPosition) rem
    nutLength E rem = if Fp.isNaN nf then 1 else max 1 (Fp.toInt (Fp.floor nf)) := by
  simp only [nutLength, atLeastOne_eq_max]

theorem pluckDecay_of_positive (p : Config.Params) (loop : F32) {ms : F32} (h : Fp.lt Fp.zero ms = true) :
    pluckDecay p loop ms = Fp.min
      (Fp.pow10 p.fns (Fp.neg (Fp.div loop (Fp.div (Fp.mul (Fp.ofInt p.fs) ms) Fp.thousand)))) Fp.decayMax := if_pos h

theorem pluckDecay_of_not_positive (p : Config.Params) (loop : F32) {ms : F32} (h : Fp.lt Fp.zero ms = false) :
    pluckDecay p loop ms = Fp.zero := if_neg (by simp [h])

/-- The split point of a burst (R612). -/
def splitPoint (E : VoiceEnv) (burst : Nat) : Nat :=
  (Fp.clampInt (Fp.toInt (Fp.floor (Fp.mul (liveF E .strPluckPos) (Fp.ofInt (burst : Int))))) 0 burst).toNat

theorem splitPoint_cast (E : VoiceEnv) (burst : Nat) : (splitPoint E burst : Int) =
    Fp.clampInt (Fp.toInt (Fp.floor (Fp.mul (liveF E .strPluckPos) (Fp.ofInt (burst : Int))))) 0 burst :=
  Int.toNat_of_nonneg (DelayPool.clampInt_bounds (by omega)).1

/-- A line that may be missing, cleared (R611). -/
def clearLine (cap : Nat) (d : DelayPool) : Option Nat → DelayPool
  | some l => d.clear cap l
  | none => d

/-! ### The voice and the lines after NoteOn, by family -/

section
variable (E : VoiceEnv) (ch : Fin 16) (note vel : Fin 128) {V : Voice} (d : DelayPool)

/-- The fields of a pluck that do not depend on its line (R612). -/
def plucked (V : Voice) : Voice :=
  let W := noteOnReset .string ch note vel V
  { W with
    tune := (tfSplit W.tune (loopRemainder E.cfg W note)).1
    decay := pluckDecay E.cfg (loopLength E.cfg note) (liveF E .strDecayMs)
    noise := BitVec.ofInt 32 (liveI E .strNoiseSeed) }

theorem voiceNoteOn_string_none (h0 : V.line0 = none) : voiceNoteOn E .string ch note vel V d =
    ({ plucked E ch note vel V with burstLen := 0, p := 0 }, d) := by
  cases V
  cases h0
  rfl

theorem voiceNoteOn_string_some {l : Nat} (h0 : V.line0 = some l) :
    let W := noteOnReset .string ch note vel V
    let e := (d.clear E.cfg.cap l).setDelay E.cfg.cap l (max 1 (tfSplit W.tune (loopRemainder E.cfg W note)).2)
    let burst := (e.line l).len
    voiceNoteOn E .string ch note vel V d =
      ({ plucked E ch note vel V with burstLen := burst, p := splitPoint E burst }, e) := by
  simp only [← atLeastOne_eq_max]
  cases V
  cases h0
  rfl

theorem voiceNoteOn_reed_none (h0 : V.line0 = none) : (voiceNoteOn E .reed ch note vel V d).2 = d := by
  cases V
  cases h0
  rfl

theorem voiceNoteOn_reed_some {l : Nat} (h0 : V.line0 = some l) :
    let W := noteOnReset .reed ch note vel V
    (voiceNoteOn E .reed ch note vel V d).2 =
      (d.clear E.cfg.cap l).setDelay E.cfg.cap l (max 1 (tfSplit W.tune (loopRemainder E.cfg W note)).2) := by
  simp only [← atLeastOne_eq_max]
  cases V
  cases h0
  rfl

theorem voiceNoteOn_bow_missing (h : V.line0 = none ∨ V.line1 = none) : (voiceNoteOn E .bow ch note vel V d).2 =
    clearLine E.cfg.cap (clearLine E.cfg.cap d V.line0) V.line1 := by
  obtain ⟨_, _, _, _, _, _, line0, line1⟩ := V
  obtain h0 | h1 := h
  · cases h0
    rfl
  · cases h1
    cases line0 <;> rfl

theorem voiceNoteOn_bow_both {nut brg : Nat} (h0 : V.line0 = some nut) (h1 : V.line1 = some brg) :
    let W := noteOnReset .bow ch note vel V
    let rem := loopRemainder E.cfg W note
    (voiceNoteOn E .bow ch note vel V d).2 =
      (((d.clear E.cfg.cap nut).clear E.cfg.cap brg).setDelay E.cfg.cap nut (nutLength E rem)).setDelay E.cfg.cap brg
        (max 1 (tfSplit W.tune (Fp.sub rem (Fp.ofInt (nutLength E rem)))).2) := by
  simp only [← atLeastOne_eq_max]
  cases V
  cases h0
  cases h1
  rfl

theorem voiceNoteOn_bow_voice (V : Voice) :
    let W := noteOnReset .bow ch note vel V
    let rem := loopRemainder E.cfg W note
    (voiceNoteOn E .bow ch note vel V d).1 =
      { W with tune := (tfSplit W.tune (Fp.sub rem (Fp.ofInt (nutLength E rem)))).1 } := rfl

end

end Sys2Proof.Machine

open Sys2Proof Sys2Proof.Machine Sys2Proof.Claims

/-- Settles O48: in each family the delay that the tuning filter splits is the one asked for, and then the fields and the
lines are read off, with and without a missing line. -/
theorem voiceNoteOn : Obligations.VoiceNoteOn := by
  intro E f ch note vel V d r loss disp freq loop rem nf nutL asked split cleared
  cases f with
  | string =>
    have hsplit : split = tfSplit (noteOnReset .string ch note vel V).tune
        (loopRemainder E.cfg (noteOnReset .string ch note vel V) note) := congrArg (tfSplit _) (if_neg (by decide))
    obtain h0 | ⟨l, h0⟩ := Option.eq_none_or_eq_some V.line0
    · have hr : r = _ := voiceNoteOn_string_none E ch note vel d h0
      rw [hr, hsplit]
      exact ⟨rfl, nofun, fun _ => ⟨rfl, pluckDecay_of_not_positive _ _, pluckDecay_of_positive _ _,
        fun _ => ⟨rfl, rfl, rfl⟩, fun l h => absurd (h0.symm.trans h) nofun⟩, nofun, nofun⟩
    · have hr : r = _ := voiceNoteOn_string_some E ch note vel d h0
      rw [hr, hsplit]
      refine ⟨rfl, nofun, fun _ => ⟨rfl, pluckDecay_of_not_positive _ _, pluckDecay_of_positive _ _,
        fun h => absurd (h0.symm.trans h) nofun, fun l' h => ?_⟩, nofun, nofun⟩
      obtain rfl : l = l' := Option.some.inj (h0.symm.trans h)
      exact ⟨rfl, rfl, splitPoint_cast E _⟩
  | reed =>
    have hsplit : split = tfSplit (noteOnReset .reed ch note vel V).tune
        (loopRemainder E.cfg (noteOnReset .reed ch note vel V) note) := congrArg (tfSplit _) (if_neg (by decide))
    rw [hsplit]
    refine ⟨rfl, fun _ => ⟨rfl, rfl, rfl, rfl⟩, nofun, fun _ => ⟨fun h0 => ?_, fun l h0 => ?_⟩, nofun⟩
    · exact voiceNoteOn_reed_none E ch note vel d h0
    · exact voiceNoteOn_reed_some E ch note vel d h0
  | bow =>
    have hnut : nutLength E (loopRemainder E.cfg (noteOnReset .bow ch note vel V) note) = nutL := nutLength_eq E rem
    have hsplit : split = tfSplit (noteOnReset .bow ch note vel V).tune
        (Fp.sub (loopRemainder E.cfg (noteOnReset .bow ch note vel V) note) (Fp.ofInt nutL)) :=
      congrArg (tfSplit _) (if_pos rfl)
    have hV : r.1 = _ := voiceNoteOn_bow_voice E ch note vel d V
    rw [hnut] at hV
    rw [hsplit]
    refine ⟨hV, fun _ => ⟨rfl, rfl, rfl, rfl⟩, nofun, nofun, fun _ => ⟨fun h => ?_, fun nut brg h0 h1 => ?_⟩⟩
    · exact voiceNoteOn_bow_missing E ch note vel d h
    · have hr : r.2 = _ := voiceNoteOn_bow_both E ch note vel d h0 h1
      rwa [hnut] at hr

end

section
/-! What is the ENGINE's alone (10_state R100, R101, R141, 46_polysynth R745), and the ENGINE's step by its phase. -/

namespace Sys2Proof.Machine

/-! ### What no command touches -/

/-- What is the ENGINE's alone: its sequencing, the pools and the emitted blocks. -/
structure EngineOnlyKept (s t : State) : Prop where
  phase : t.phase = s.phase
  snap : t.snap = s.snap
  pools : t.pools = s.pools
  emitted : t.emitted = s.emitted

theorem CommandEffect.engineOnlyKept {s t : State} (h : CommandEffect s t) : EngineOnlyKept s t := by
  cases h with
  | control | param | read | push | setDelay | clear | get | release | voice => exact ⟨rfl, rfl, rfl, rfl⟩

theorem CommandOutcome.engineOnlyKept {s t : State} (h : CommandOutcome s t) : EngineOnlyKept s t := by
  obtain ⟨c, -, rfl⟩ | ⟨u, r, hu, rfl⟩ := h
  · exact ⟨rfl, rfl, rfl, rfl⟩
  · obtain ⟨hphase, hsnap, hpools, hemitted⟩ := hu.engineOnlyKept
    exact ⟨hphase, hsnap, hpools, hemitted⟩

theorem hostStep_engineOnlyKept {s t : State} (h : s.hostStep = .next t) : EngineOnlyKept s t := by
  obtain rfl | ⟨rest, ho⟩ := hostStep_cases h
  · exact ⟨rfl, rfl, rfl, rfl⟩
  · obtain ⟨hphase, hsnap, hpools, hemitted⟩ := ho.engineOnlyKept
    exact ⟨hphase, hsnap, hpools, hemitted⟩

/-! ### The ENGINE's step by phase -/

theorem engineStep_of_swap {s : State} {g : Fin 4} (h : s.phase = .swap g) : s.engineStep = s.swapWord g := by
  simp only [State.engineStep, h]

theorem engineStep_of_apply {s : State} (h : s.phase = .apply) : s.engineStep = s.applyStep := by
  simp only [State.engineStep, h]

theorem engineStep_of_render {s : State} (h : s.phase = .render) : s.engineStep = s.renderStep := by
  simp only [State.engineStep, h]

end Sys2Proof.Machine
end

section
/-! The removal loop (46_polysynth R720): one equation per round, on a used list split at the place that is tested next; and
from them what the whole loop keeps and frees. -/

namespace Sys2Proof.Machine

section
variable {silent pre rest mid unused : List (Fin 8)} {fuel : Nat} {v w rr : Fin 8}

/-- Past the last element the loop is done. -/
theorem removeFrom_end : removeFrom silent fuel pre.length ⟨pre, unused, rr⟩ = ⟨pre, unused, rr⟩ := by
  cases fuel with
  | zero => rfl
  | succ fuel => simp only [removeFrom, List.getElem?_eq_none (Nat.le_refl _)]

/-- A voice that is not silent is passed over. -/
theorem removeFrom_kept (hv : v ∉ silent) :
    removeFrom silent (fuel + 1) pre.length ⟨pre ++ v :: rest, unused, rr⟩ =
      removeFrom silent fuel (pre ++ [v]).length ⟨(pre ++ [v]) ++ rest, unused, rr⟩ := by
  simp [removeFrom, hv]

/-- A silent voice at the end is freed, and the loop is done. -/
theorem removeFrom_freed_last (hv : v ∈ silent) :
    removeFrom silent (fuel + 1) pre.length ⟨pre ++ [v], unused, rr⟩ = ⟨pre, v :: unused, rr⟩ := by
  simp [removeFrom, hv, removeFrom_end]

/-- A silent voice before the end is freed, the last element takes its place, and that place is tested again. -/
theorem removeFrom_freed (hv : v ∈ silent) :
    removeFrom silent (fuel + 1) pre.length ⟨pre ++ v :: (mid ++ [w]), unused, rr⟩ =
      removeFrom silent fuel pre.length ⟨pre ++ w :: mid, v :: unused, rr⟩ := by
  have hsplit (x : Fin 8) : pre ++ x :: (mid ++ [w]) = (pre ++ x :: mid) ++ [w] := by simp
  have htested : (pre ++ v :: (mid ++ [w]))[pre.length]? = some v := by simp
  have hlast : (pre ++ v :: (mid ++ [w])).getLastD v = w := by rw [hsplit, List.getLastD_concat]
  have hmoved : ((pre ++ v :: (mid ++ [w])).set pre.length w).dropLast = pre ++ w :: mid := by
    rw [List.set_append_right _ _ (Nat.le_refl _), Nat.sub_self, List.set_cons_zero, hsplit, List.dropLast_concat]
  simp only [removeFrom, htested, List.contains_iff_mem.2 hv, if_true, hlast, hmoved]

/-- Voices that are not silent are passed over one after another. -/
theorem removeFrom_kept_all {ks : List (Fin 8)} (hks : ∀ u ∈ ks, u ∉ silent) :
    removeFrom silent (ks.length + fuel) pre.length ⟨pre ++ (ks ++ rest), unused, rr⟩ =
      removeFrom silent fuel (pre ++ ks).length ⟨(pre ++ ks) ++ rest, unused, rr⟩ := by
  induction ks generalizing pre with
  | nil => simp
  | cons k ks ih =>
    obtain ⟨hk, hks⟩ := List.forall_mem_cons.1 hks
    rw [List.length_cons, Nat.add_right_comm, List.cons_append, removeFrom_kept hk, ih hks,
      List.append_assoc, List.singleton_append]

end

/-- The loop splits what it has not tested into the voices that it keeps and those that it frees. -/
theorem removeFrom_spec (silent : List (Fin 8)) (rr : Fin 8) (fuel : Nat) (pre rest unused : List (Fin 8))
    (hfuel : rest.length ≤ fuel) :
    ∃ kept freed, removeFrom silent fuel pre.length ⟨pre ++ rest, unused, rr⟩ = ⟨pre ++ kept, freed ++ unused, rr⟩ ∧
      kept.Perm (rest.filter fun v => !silent.contains v) ∧ freed.Perm (rest.filter fun v => silent.contains v) := by
  induction fuel generalizing pre rest unused with
  | zero =>
    obtain rfl := List.length_eq_zero_iff.1 (Nat.le_zero.1 hfuel)
    exact ⟨[], [], rfl, .nil, .nil⟩
  | succ fuel ih =>
    cases rest with
    | nil => exact ⟨[], [], by rw [List.append_nil, removeFrom_end]; rfl, .nil, .nil⟩
    | cons v rest =>
      have hlen : rest.length ≤ fuel := Nat.le_of_succ_le_succ hfuel
      by_cases hv : v ∈ silent
      · obtain rfl | ⟨mid, w, rfl⟩ := rest.eq_nil_or_concat
        · exact ⟨[], [v], by rw [removeFrom_freed_last hv]; simp, by simp [hv], by simp [hv]⟩
        · rw [List.concat_eq_append] at hlen ⊢
          have hswap : (w :: mid).Perm (mid ++ [w]) := (List.perm_append_singleton w mid).symm
          obtain ⟨kept, freed, e, hkept, hfreed⟩ := ih pre (w :: mid) (v :: unused) (by simpa using hlen)
          refine ⟨kept, freed ++ [v], ?_, ?_, ?_⟩
          · rw [removeFrom_freed hv, e, List.append_assoc, List.singleton_append]
          · rw [List.filter_cons_of_neg (by simpa using hv)]
            exact hkept.trans (hswap.filter _)
          · rw [List.filter_cons_of_pos (by simpa using hv)]
            exact (List.perm_append_singleton v freed).trans ((hfreed.trans (hswap.filter _)).cons v)
      · obtain ⟨kept, freed, e, hkept, hfreed⟩ := ih (pre ++ [v]) rest unused hlen
        refine ⟨v :: kept, freed, ?_, ?_, ?_⟩
        · rw [removeFrom_kept hv, e, List.append_assoc, List.singleton_append]
        · rw [List.filter_cons_of_pos (by simpa using hv)]
          exact hkept.cons v
        · rwa [List.filter_cons_of_neg (by simpa using hv)]

/-- Remove splits used into the voices that it keeps and those that it frees, and leaves rr. -/
theorem removeSilent_spec (silent : List (Fin 8)) (P : PolySynth) :
    ∃ kept freed, removeSilent silent P = ⟨kept, freed ++ P.unused, P.rr⟩ ∧
      kept.Perm (P.used.filter fun v => !silent.contains v) ∧ freed.Perm (P.used.filter fun v => silent.contains v) :=
  removeFrom_spec silent P.rr P.used.length [] P.used P.unused (Nat.le_refl _)

/-- The voices before the first silent one stay where they are. -/
theorem removeSilent_past_kept {silent pre : List (Fin 8)} (hpre : ∀ u ∈ pre, u ∉ silent)
    (rest unused : List (Fin 8)) (rr : Fin 8) :
    removeSilent silent ⟨pre ++ rest, unused, rr⟩ =
      removeFrom silent rest.length pre.length ⟨pre ++ rest, unused, rr⟩ := by
  rw [removeSilent, List.length_append]
  exact removeFrom_kept_all (pre := []) hpre

end Sys2Proof.Machine

open Sys2Proof Sys2Proof.Machine

/-- Settles O51: the loop is its rounds, and the rounds split used into what is kept and what is freed. -/
theorem removalLoop : Obligations.RemovalLoop := by
  refine ⟨fun silent P _ => ?_, fun silent pre mid unused v w rr hpre => ⟨?_, fun hv => ⟨?_, ?_⟩⟩, by decide⟩
  · obtain ⟨kept, freed, e, hkept, hfreed⟩ := removeSilent_spec silent P
    rw [e]
    exact ⟨rfl, hkept, freed, rfl, hfreed⟩
  · have h := removeSilent_past_kept hpre [] unused rr
    rwa [List.append_nil, removeFrom_end] at h
  · rw [removeSilent_past_kept hpre]
    exact removeFrom_freed_last hv
  · rw [removeSilent_past_kept hpre, removeSilent_past_kept hpre, List.length_cons, removeFrom_freed hv,
      List.length_append, List.length_singleton, List.length_cons]

end

section
/-! The pools' partition (10_state R141, 46_polysynth R750). No command touches a pool; of the ENGINE's phases, APPLY starts,
steals and frees voices and RENDER frees the silent ones, and each of these moves a voice from one list to the other. -/

namespace Sys2Proof.Machine

/-! ### One pool -/

/-- used and unused together hold each voice once. -/
def PolySynth.Partition (P : PolySynth) : Prop := (P.used ++ P.unused).Perm allVoices

theorem emptyPool_partition : emptyPool.Partition := .refl _

theorem PolySynth.Partition.used_nodup {P : PolySynth} (h : P.Partition) : P.used.Nodup :=
  (List.nodup_append.1 (h.nodup_iff.2 (by decide : allVoices.Nodup))).1

theorem PolySynth.Partition.removeSilent {P : PolySynth} (h : P.Partition) (silent : List (Fin 8)) :
    (removeSilent silent P).Partition := by
  obtain ⟨kept, freed, e, hkept, hfreed⟩ := removeSilent_spec silent P
  have hused : (freed ++ kept).Perm P.used :=
    (hfreed.append hkept).trans (List.filter_append_perm (fun v => silent.contains v) P.used)
  rw [e]
  refine List.Perm.trans ?_ h
  rw [← List.append_assoc]
  exact (List.perm_append_comm.trans hused).append_right P.unused

/-! ### The pools of a state -/

/-- A pool that is a partition stays one, in every family. -/
def PoolsKept (s t : State) : Prop := ∀ f, (s.pool f).Partition → (t.pool f).Partition

theorem poolsKept_of_eq {s t : State} (h : t.pools = s.pools) : PoolsKept s t := fun f hf => by
  rwa [State.pool, h]

theorem PoolsKept.refl (s : State) : PoolsKept s s := fun _ => id

theorem PoolsKept.trans {s t u : State} (h : PoolsKept s t) (g : PoolsKept t u) : PoolsKept s u := fun f hf => g f (h f hf)

theorem poolsKept_foldl {α : Type} {op : State → α → State} (h : ∀ s a, PoolsKept s (op s a)) (l : List α) (s : State) :
    PoolsKept s (l.foldl op s) :=
  List.foldlRecOn l op (motive := PoolsKept s) (.refl s) fun t ht a _ => ht.trans (h t a)

theorem poolsKept_setPool {s : State} {f : Family} {P : PolySynth} (h : (s.pool f).Partition → P.Partition) :
    PoolsKept s (s.setPool f P) := by
  intro g hg
  by_cases hgf : g = f
  · subst hgf
    rw [State.pool_setPool_same]
    exact h hg
  · rwa [State.pool_setPool_other _ _ hgf]

/-- The popped voice goes from unused to used; a stolen one stays in used. -/
theorem psNoteOn_poolsKept (s : State) (f : Family) (ch : Fin 16) (note vel : Fin 128) :
    PoolsKept s (s.psNoteOn f ch note vel) := by
  have hstart (P : PolySynth) (v : Fin 8) : PoolsKept (s.setPool f P) ((s.setPool f P).startVoice f v ch note vel) :=
    poolsKept_of_eq rfl
  unfold State.psNoteOn
  dsimp only
  split
  · rename_i v rest hu
    refine PoolsKept.trans (poolsKept_setPool fun hP => ?_) (hstart _ v)
    rw [PolySynth.Partition, List.append_assoc, List.singleton_append, ← hu]
    exact hP
  · refine PoolsKept.trans (poolsKept_setPool fun hP => ?_) (hstart _ _)
    exact hP

theorem psNoteOff_poolsKept (s : State) (f : Family) (note : Fin 128) : PoolsKept s (s.psNoteOff f note) := by
  refine poolsKept_foldl (fun t v => ?_) _ s
  unfold State.psNoteOffOne
  split <;> exact poolsKept_of_eq rfl

theorem psForceStopAll_poolsKept (s : State) (f : Family) : PoolsKept s (s.psForceStopAll f) :=
  (poolsKept_setPool fun _ => emptyPool_partition).trans (poolsKept_of_eq rfl)

theorem switchTo_poolsKept (s : State) (r : Family) : PoolsKept s (s.switchTo r) := by
  by_cases hr : r = s.active
  · rw [hr, switchTo_active]
    exact .refl s
  · rw [switchTo_other hr]
    exact (poolsKept_setPool fun _ => emptyPool_partition).trans (poolsKept_of_eq rfl)

theorem applyInstrument_poolsKept (s : State) : PoolsKept s s.applyInstrument := by
  unfold State.applyInstrument
  split
  · have htake : PoolsKept s { s with instrReq := { s.instrReq with valid := false } } := poolsKept_of_eq rfl
    exact htake.trans (switchTo_poolsKept _ _)
  · exact .refl s

theorem applyForceStop_poolsKept (s : State) : PoolsKept s s.applyForceStop := by
  unfold State.applyForceStop
  split
  · have htake : PoolsKept s { s with fsaReq := false } := poolsKept_of_eq rfl
    exact htake.trans (psForceStopAll_poolsKept _ _)
  · exact .refl s

theorem applyNote_poolsKept (Q : Vector NoteReq 128) (s : State) (note : Fin 128) : PoolsKept s (s.applyNote Q note) := by
  unfold State.applyNote
  split
  · exact psNoteOn_poolsKept s _ _ note _
  · exact psNoteOff_poolsKept s _ note
  · exact .refl s

theorem applyStep_poolsKept (s : State) : PoolsKept s s.applyStep := by
  have hswitch := (applyInstrument_poolsKept s).trans (applyForceStop_poolsKept _)
  have htake : PoolsKept s { s.applyInstrument.applyForceStop with req := Vector.replicate 128 .none } :=
    hswitch.trans (poolsKept_of_eq rfl)
  exact (htake.trans (poolsKept_foldl (applyNote_poolsKept _) allSlots _)).trans (poolsKept_of_eq rfl)

theorem renderVoices_pools (s : State) (f : Family) : (s.renderVoices f).state.pools = s.pools :=
  List.foldlRecOn _ (renderVoice f) (motive := fun R => R.state.pools = s.pools) rfl fun R hR v _ =>
    (rfl : (renderVoice f R v).state.pools = R.state.pools).trans hR

theorem renderStep_poolsKept (s : State) : PoolsKept s s.renderStep :=
  (poolsKept_of_eq (renderVoices_pools s s.active)).trans
    ((poolsKept_setPool fun hP => hP.removeSilent _).trans (poolsKept_of_eq rfl))

theorem EngineEffect.pools {s t : State} (h : EngineEffect s t) (ha : s.phase ≠ .apply) (hr : s.phase ≠ .render) :
    t.pools = s.pools := by
  cases h with
  | start | silent | swap | unassigned | callback => rfl
  | apply _ hp => exact absurd hp ha
  | render _ _ hp => exact absurd hp hr

theorem engineStep_poolsKept (s : State) : PoolsKept s s.engineStep := by
  by_cases ha : s.phase = .apply
  · rw [engineStep_of_apply ha]
    exact applyStep_poolsKept s
  by_cases hr : s.phase = .render
  · rw [engineStep_of_render hr]
    exact renderStep_poolsKept s
  · exact poolsKept_of_eq ((engineStep_cases s).pools ha hr)

end Sys2Proof.Machine

open Sys2Proof Sys2Proof.Machine

/-- Settles O56: the HOST leaves the pools, the ENGINE keeps each a partition, and the reset empties them. -/
theorem stepKeepsPoolPartition : Obligations.StepKeepsPoolPartition := by
  intro s t hs h f
  obtain ⟨sched, hhost | rfl | rfl⟩ := step_cases h
  · exact poolsKept_of_eq (hostStep_engineOnlyKept hhost).pools f (hs f)
  · exact engineStep_poolsKept { s with sched := sched } f (hs f)
  · cases f <;> exact emptyPool_partition

end

section
/-! The drain (46_polysynth R741, 48_engine_control R854): what the slot bits of SNAP are after each of its steps, and that
the callbacks run in ascending slot order. -/

namespace Sys2Proof.Machine

open Sys2Proof.Claims

/-! ### Slot bits -/

theorem slotBit_replicate_zero (u : Fin 128) : slotBit (Vector.replicate 4 0#32) u = false := by
  simp [slotBit]

/-- Clearing a slot's bit clears that bit and no other. -/
theorem slotBit_clearSlotBit (d : Vector Word 4) (slot u : Fin 128) :
    slotBit (clearSlotBit d slot) u = (slotBit d u && decide (u ≠ slot)) := by
  unfold slotBit clearSlotBit
  by_cases hg : dirtyGroup slot = dirtyGroup u
  · have hval : slot.val / 32 = u.val / 32 := congrArg Fin.val hg
    have hbit : dirtyIndex u = dirtyIndex slot ↔ u = slot := by
      unfold dirtyIndex
      omega
    have hlt : dirtyIndex u < 32 := Nat.mod_lt _ (by decide)
    simp [hg, ← BitVec.twoPow_eq, hbit, hlt]
  · have hne : u ≠ slot := fun e => hg (e ▸ rfl)
    have hval : (dirtyGroup slot).val ≠ (dirtyGroup u).val := fun e => hg (Fin.ext e)
    simp [hne, Vector.getElem_set_ne _ _ hval]

/-- Four words without a set bit are zero. -/
theorem eq_zero_of_slotBit {d : Vector Word 4} (h : ∀ u, slotBit d u = false) : d = Vector.replicate 4 0#32 := by
  apply Vector.ext
  intro g hg
  rw [Vector.getElem_replicate]
  apply BitVec.eq_of_getLsbD_eq
  intro i hi
  have hslot := h ⟨g * 32 + i, by omega⟩
  have hgroup : dirtyGroup ⟨g * 32 + i, by omega⟩ = ⟨g, hg⟩ := Fin.ext (by simp only [dirtyGroup]; omega)
  have hindex : dirtyIndex ⟨g * 32 + i, by omega⟩ = i := by simp only [dirtyIndex]; omega
  simpa [slotBit, hgroup, hindex] using hslot

/-! ### next(s) -/

theorem allSlots_eq : allSlots = List.finRange 128 := rfl

/-- `nextPhase` is the least slot from n on whose bit is set, or APPLY. -/
theorem nextPhase_spec (snap : Vector Word 4) (n : Nat) : NextCallback snap n (nextPhase snap n) := by
  unfold nextPhase
  rw [allSlots_eq]
  split
  · rename_i t ht
    obtain ⟨hpt, i, hi, rfl, hbefore⟩ := List.find?_eq_some_iff_getElem.1 ht
    simp only [Bool.and_eq_true, decide_eq_true_eq] at hpt
    refine .inl ⟨_, rfl, hpt.1, hpt.2, fun u hu hlt => ?_⟩
    rw [List.getElem_finRange] at hlt
    simpa [hu] using hbefore u.val hlt
  · rename_i hnone
    refine .inr ⟨rfl, fun u hu => ?_⟩
    simpa [hu] using List.find?_eq_none.1 hnone u (List.mem_finRange u)

/-- Where the drain stands: a callback with no set bit below it, or APPLY with no set bit at all. -/
theorem phase_of_nextPhase {snap : Vector Word 4} {n : Nat} (hbelow : ∀ u : Fin 128, u.val < n → slotBit snap u = false) :
    (∃ t, nextPhase snap n = .callback t ∧ ∀ u < t, slotBit snap u = false) ∨
      (nextPhase snap n = .apply ∧ snap = Vector.replicate 4 0#32) := by
  obtain ⟨t, e, -, -, hbetween⟩ | ⟨e, habove⟩ := nextPhase_spec snap n
  · refine .inl ⟨t, e, fun u hu => ?_⟩
    obtain h | h := Nat.lt_or_ge u.val n
    · exact hbelow u h
    · exact hbetween u h hu
  · refine .inr ⟨e, eq_zero_of_slotBit fun u => ?_⟩
    obtain h | h := Nat.lt_or_ge u.val n
    · exact hbelow u h
    · exact habove u h

/-! ### The invariant -/

theorem phaseConsistent_congr {s t : State} (hp : t.phase = s.phase) (hs : t.snap = s.snap)
    (hm : t.mode = .stop → s.mode = .stop) (h : PhaseConsistent s) : PhaseConsistent t := by
  obtain ⟨hzero, hidle, hasc⟩ := h
  refine ⟨fun ht => ?_, fun ht => ?_, fun u hu => ?_⟩
  · rw [hs]
    exact hzero (hp ▸ ht)
  · rw [hp]
    exact hidle (hm ht)
  · rw [hs]
    exact hasc u (hp ▸ hu)

/-- With SNAP zero, every phase that is no callback is consistent in RUN mode, and IDLE in either. -/
theorem phaseConsistent_of_zero {s : State} (hz : s.snap = Vector.replicate 4 0#32) (hi : s.mode = .stop → s.phase = .idle) :
    PhaseConsistent s :=
  ⟨fun _ => hz, hi, fun _ _ u _ => by rw [hz]; exact slotBit_replicate_zero u⟩

/-- A drain in RUN mode that has passed every slot below n goes on consistently. -/
theorem phaseConsistent_of_nextPhase {s : State} {n : Nat} (hp : s.phase = nextPhase s.snap n) (hm : s.mode ≠ .stop)
    (hbelow : ∀ u : Fin 128, u.val < n → slotBit s.snap u = false) : PhaseConsistent s := by
  obtain ⟨t, e, hasc⟩ | ⟨-, hz⟩ := phase_of_nextPhase hbelow
  · rw [e] at hp
    refine ⟨fun h => ?_, fun h => absurd h hm, fun u hu => ?_⟩
    · rw [hp] at h
      exact absurd h (by simp)
    · obtain rfl : t = u := Phase.callback.inj (hp.symm.trans hu)
      exact hasc
  · exact phaseConsistent_of_zero hz fun h => absurd h hm

/-- A drain that goes on with the next word. -/
theorem phaseConsistent_of_swap {s : State} {g : Fin 4} (hp : s.phase = .swap g) (hm : s.mode ≠ .stop) :
    PhaseConsistent s := by
  refine ⟨fun h => ?_, fun h => absurd h hm, fun u hu => absurd (hp.symm.trans hu) nofun⟩
  rw [hp] at h
  exact absurd h (by simp)

theorem PhaseConsistent.running {s : State} (h : PhaseConsistent s) (hp : s.phase ≠ .idle) : s.mode ≠ .stop :=
  mt h.stopIdle hp

/-- SWAP(3) is the last of the words. -/
theorem swapWord_phaseConsistent {s : State} (g : Fin 4) (hm : s.mode ≠ .stop) : PhaseConsistent (s.swapWord g) := by
  by_cases hg : g.val < 3
  · exact phaseConsistent_of_swap (g := ⟨g.val + 1, by omega⟩) (dif_pos hg) hm
  · exact phaseConsistent_of_nextPhase (n := 0) (dif_neg hg) hm fun u hu => absurd hu (Nat.not_lt_zero _)

/-- After a callback no bit up to its slot is set. -/
theorem clearSlotBit_below {d : Vector Word 4} {slot : Fin 128} (h : ∀ u < slot, slotBit d u = false) (u : Fin 128)
    (hu : u.val < slot.val + 1) : slotBit (clearSlotBit d slot) u = false := by
  rw [slotBit_clearSlotBit]
  by_cases he : u = slot
  · simp [he]
  · rw [h u (by omega), Bool.false_and]

theorem EngineEffect.phaseConsistent {s t : State} (he : EngineEffect s t) (h : PhaseConsistent s) : PhaseConsistent t := by
  cases he with
  | start _ hm => exact phaseConsistent_of_swap (g := 0) rfl (by rw [hm]; nofun)
  | silent hp => exact phaseConsistent_of_zero (h.snapIdle (.inl hp)) fun _ => hp
  | swap g hp => exact swapWord_phaseConsistent g (h.running (by rw [hp]; nofun))
  | unassigned slot hp =>
    exact phaseConsistent_of_nextPhase rfl (h.running (by rw [hp]; nofun)) (clearSlotBit_below (h.ascending slot hp))
  | callback slot _ _ _ _ hp =>
    exact phaseConsistent_of_nextPhase rfl (h.running (by rw [hp]; nofun)) (clearSlotBit_below (h.ascending slot hp))
  | apply t hp hw =>
    have hz : t.snap = s.snap := by rw [hw.frame]
    refine phaseConsistent_of_zero (hz.trans (h.snapIdle (.inr (.inl hp)))) fun hm => ?_
    exact absurd (hw.mode.symm.trans hm) (h.running (by rw [hp]; nofun))
  | render t _ hp hw =>
    have hz : t.snap = s.snap := by rw [hw.frame]
    exact phaseConsistent_of_zero (hz.trans (h.snapIdle (.inr (.inr hp)))) fun _ => rfl

/-- The two outcomes of the block tick (R740). -/
theorem EngineEffect.tick {s t : State} (he : EngineEffect s t) (hp : s.phase = .idle) :
    (s.mode = .run ∧ s.stopReq = false ∧ t = { s with phase := .swap 0 }) ∨
      ((s.mode = .stop ∨ s.stopReq = true) ∧ t = { s with
        mode := .stop, stopReq := false
        emitted := s.emitted ++ [⟨silence s.cfg.val.block, silence s.cfg.val.block⟩] }) := by
  cases he with
  | start _ hm hr => exact .inl ⟨hm, hr, rfl⟩
  | silent _ hm => exact .inr ⟨hm, rfl⟩
  | swap _ hp' | unassigned _ hp' | callback _ _ _ _ _ hp' | apply _ hp' | render _ _ hp' =>
    exact absurd (hp.symm.trans hp') nofun

end Sys2Proof.Machine

open Sys2Proof Sys2Proof.Machine Sys2Proof.Claims

/-- Settles O59: the HOST touches neither SNAP nor PHASE, and each ENGINE step goes on where the drain stands. -/
theorem stepKeepsPhase : Obligations.StepKeepsPhase := by
  intro s t hs h
  obtain ⟨sched, h⟩ := step_cases h
  have hsched : PhaseConsistent { s with sched := sched } := phaseConsistent_congr (s := s) rfl rfl id hs
  obtain hhost | rfl | rfl := h
  · have hkept := hostStep_engineOnlyKept hhost
    exact phaseConsistent_congr hkept.phase hkept.snap (hostStep_keeps hhost).mode hsched
  · exact (engineStep_cases _).phaseConsistent hsched
  · exact phaseConsistent_of_zero rfl fun _ => rfl

/-- Settles O42: the tick by STOP_REQ and MODE, and the drain of one word. -/
theorem blockTickAndDrain : Obligations.BlockTickAndDrain := by
  refine fun s => ⟨fun hp hstop => ?_, fun hp hr hm => ?_, fun g hp => ?_⟩
  · obtain ⟨hm, hr, -⟩ | ⟨-, e⟩ := (engineStep_cases s).tick hp
    · rw [hm, hr] at hstop
      exact absurd hstop (by decide)
    · exact e
  · obtain ⟨-, -, e⟩ | ⟨hstop, -⟩ := (engineStep_cases s).tick hp
    · exact e
    · rw [hm, hr] at hstop
      exact absurd hstop (by decide)
  · refine ⟨_, _, _, engineStep_of_swap hp, Vector.getElem_set_self _, Vector.getElem_set_self _, fun h hne => ?_,
      fun hg => dif_pos hg, fun hg => ?_⟩
    · have hval : g.val ≠ h.val := fun e => hne (Fin.ext e.symm)
      exact ⟨Vector.getElem_set_ne _ _ hval, Vector.getElem_set_ne _ _ hval⟩
    · rw [dif_neg (by omega)]
      exact nextPhase_spec _ 0

end

section
/-! The voice manager (46_polysynth R710–R712): what PS_NoteOff does to every voice, one used voice after another, and what
PS_ForceStopAll does to a family. -/

namespace Sys2Proof.Machine

open Sys2Proof.Claims

/-! ### PS_NoteOff -/

/-- t is s with every voice of vs, in family f, told to stop if it plays the note, and nothing else changed. -/
structure NotesOff (f : Family) (note : Fin 128) (vs : List (Fin 8)) (s t : State) : Prop where
  frame : t = { s with voices := t.voices }
  off : ∀ v ∈ vs, (s.voice f v).note = note → t.voice f v = voiceNoteOff (s.voice f v)
  kept : ∀ g v, ¬(g = f ∧ v ∈ vs ∧ (s.voice f v).note = note) → t.voice g v = s.voice g v

theorem psNoteOffOne_notesOff (f : Family) (note : Fin 128) (s : State) (v : Fin 8) :
    NotesOff f note [v] s (s.psNoteOffOne f note v) := by
  unfold State.psNoteOffOne isPlaying
  split
  · rename_i hplays
    have hnote : (s.voice f v).note = note := by simpa using hplays
    refine ⟨rfl, fun u hu _ => ?_, fun g u h => State.voice_setVoice_other _ _ ?_⟩
    · rw [List.mem_singleton.1 hu, State.voice_setVoice_same]
    · rintro ⟨rfl, rfl⟩
      exact h ⟨rfl, List.mem_singleton_self _, hnote⟩
  · rename_i hplays
    refine ⟨rfl, fun u hu hnote => ?_, fun _ _ _ => rfl⟩
    rw [← List.mem_singleton.1 hu] at hplays
    exact absurd hnote (by simpa using hplays)

theorem NotesOff.note {f : Family} {note : Fin 128} {vs : List (Fin 8)} {s t : State} (h : NotesOff f note vs s t)
    (v : Fin 8) : (t.voice f v).note = (s.voice f v).note := by
  by_cases hv : v ∈ vs ∧ (s.voice f v).note = note
  · rw [h.off v hv.1 hv.2]
    rfl
  · rw [h.kept f v fun hf => hv hf.2]

/-- A voice that is told to stop twice is told once. -/
theorem NotesOff.cons {f : Family} {note : Fin 128} {v : Fin 8} {vs : List (Fin 8)} {s t u : State}
    (h : NotesOff f note [v] s t) (g : NotesOff f note vs t u) : NotesOff f note (v :: vs) s u where
  frame := g.frame.trans (by rw [h.frame])
  off w hw hnote := by
    have hnote' := (h.note w).trans hnote
    by_cases hwv : w = v
    · have ht := h.off w (List.mem_singleton.2 hwv) hnote
      by_cases hmem : w ∈ vs
      · rw [g.off w hmem hnote', ht]
        rfl
      · rw [g.kept f w fun hf => hmem hf.2.1, ht]
    · have ht := h.kept f w fun hf => hwv (List.mem_singleton.1 hf.2.1)
      rw [g.off w ((List.mem_cons.1 hw).resolve_left hwv) hnote', ht]
  kept f' w hne := by
    rw [g.kept f' w fun hf => ?_, h.kept f' w fun hf => ?_]
    · exact hne ⟨hf.1, List.mem_cons.2 (.inl (List.mem_singleton.1 hf.2.1)), hf.2.2⟩
    · exact hne ⟨hf.1, List.mem_cons_of_mem v hf.2.1, (h.note w).symm.trans hf.2.2⟩

theorem psNoteOff_notesOff (s : State) (f : Family) (note : Fin 128) :
    NotesOff f note (s.pool f).used s (s.psNoteOff f note) := by
  unfold State.psNoteOff
  generalize (s.pool f).used = vs
  induction vs generalizing s with
  | nil => exact ⟨rfl, nofun, fun _ _ _ => rfl⟩
  | cons v vs ih => exact (psNoteOffOne_notesOff f note s v).cons (ih _)

/-! ### PS_NoteOn and PS_ForceStopAll -/

section
variable {s : State} {f : Family} (ch : Fin 16) (note vel : Fin 128)

theorem psNoteOn_of_unused {v : Fin 8} {rest : List (Fin 8)} (h : (s.pool f).unused = v :: rest) :
    s.psNoteOn f ch note vel =
      started (s.setPool f ⟨(s.pool f).used ++ [v], rest, (s.pool f).rr⟩) f v ch note vel := by
  simp only [State.psNoteOn, h]
  rfl

theorem psNoteOn_of_none_unused (h : (s.pool f).unused = []) :
    s.psNoteOn f ch note vel =
      started (s.setPool f ⟨(s.pool f).used, [], (s.pool f).rr + 1⟩) f (s.pool f).rr ch note vel := by
  simp only [State.psNoteOn, h]
  rfl

end

theorem psForceStopAll_voice (s : State) (f : Family) (v : Fin 8) :
    (s.psForceStopAll f).voice f v = { s.voice f v with sustaining := false } :=
  State.voice_mapVoices_same (s.setPool f emptyPool) f voiceNoteOff v

theorem psForceStopAll_other (s : State) {f g : Family} (h : g ≠ f) :
    (s.psForceStopAll f).pool g = s.pool g ∧ ∀ v, (s.psForceStopAll f).voice g v = s.voice g v :=
  ⟨State.pool_setPool_other s emptyPool h,
    fun v => State.voice_mapVoices_other (s.setPool f emptyPool) voiceNoteOff v h⟩

end Sys2Proof.Machine

open Sys2Proof Sys2Proof.Machine Sys2Proof.Claims

/-- Settles O50: PS_NoteOn by the top of unused, PS_NoteOff by a fold over used, PS_ForceStopAll by its family. -/
theorem voiceManager : Obligations.VoiceManager := by
  intro s f ch note vel
  refine ⟨fun v rest h => psNoteOn_of_unused ch note vel h, fun h => psNoteOn_of_none_unused ch note vel h, ?_, ?_⟩
  · obtain ⟨hframe, hoff, hkept⟩ := psNoteOff_notesOff s f note
    exact ⟨hframe, fun g v hg => hkept g v fun h => hg h.1,
      fun v => ⟨fun h => hoff v h.1 h.2, fun h => hkept f v fun h' => h h'.2⟩⟩
  · exact ⟨rfl, State.pool_setPool_same s f emptyPool, psForceStopAll_voice s f, fun g hg => psForceStopAll_other s hg⟩

end

section
/-! The instrument switch (46_polysynth R713) and APPLY (R742). -/

namespace Sys2Proof.Machine

open Sys2Proof.Claims

/-! ### The switch's Release and Checkout -/

/-- The old family's voices are told to stop before their lines are released. -/
theorem switchRelease_eq (s : State) : switchRelease s = release s.active
    ⟨s.alloc, Vector.ofFn fun v => { s.voice s.active v with sustaining := false }, s.allocFail⟩ := by
  have hbank : (s.psForceStopAll s.active).voices.get s.active =
      Vector.ofFn fun v => { s.voice s.active v with sustaining := false } := PerFamily.get_set_same _ _ _
  rw [switchRelease, hbank]

theorem switchCheckout_allocFail (s : State) (r : Family) : (switchCheckout s r).allocFail =
    (s.allocFail || decide ((switchRelease s).alloc.avail.length < 8 * (lineSlots r).length)) := by
  rw [switchCheckout, checkout_allocFail, switchRelease, release_allocFail]

theorem lineOrder_lt {f : Family} {v : Fin 8} {k : Fin 2} (hk : k ∈ lineSlots f) :
    lineOrder f v k < 8 * (lineSlots f).length := by
  rw [← lineKeys_length]
  exact (List.getElem?_eq_some_iff.1 (lineKeys_lineOrder hk)).1

/-- A line that Checkout could not get sets ALLOC_FAIL. -/
theorem switchCheckout_missing {s : State} {r : Family} {v : Fin 8} {k : Fin 2} (hk : k ∈ lineSlots r)
    (h : (switchCheckout s r).ref (v, k) = none) : (switchCheckout s r).allocFail = true := by
  rw [switchCheckout, checkout_ref _ _ hk] at h
  have hshort := (List.getElem?_eq_none_iff.1 h).trans_lt (lineOrder_lt hk)
  rw [switchCheckout_allocFail, decide_eq_true hshort, Bool.or_true]

/-! ### The voices after a switch -/

section
variable {s : State} {r : Family} (h : r ≠ s.active)
include h

theorem switchTo_bank_old : (s.switchTo r).voices.get s.active = (switchRelease s).bank := by
  rw [switchTo_other h]
  exact (PerFamily.get_set_other _ _ h.symm).trans (PerFamily.get_set_same _ _ _)

theorem switchTo_bank_new : (s.switchTo r).voices.get r = (switchCheckout s r).bank := by
  rw [switchTo_other h]
  exact PerFamily.get_set_same _ _ _

theorem switchTo_voice_old (v : Fin 8) : (s.switchTo r).voice s.active v =
    { s.voice s.active v with
      sustaining := false
      line0 := ((s.switchTo r).voice s.active v).line0, line1 := ((s.switchTo r).voice s.active v).line1 } := by
  have hlines := release_sameButLines s.active
    ⟨s.alloc, Vector.ofFn fun v => { s.voice s.active v with sustaining := false }, s.allocFail⟩ v
  rw [← switchRelease_eq, ← switchTo_bank_old h, Fin.getElem_fin, Fin.getElem_fin, Vector.getElem_ofFn] at hlines
  exact hlines

theorem switchTo_voice_new (v : Fin 8) : (s.switchTo r).voice r v =
    { s.voice r v with
      line0 := ((s.switchTo r).voice r v).line0, line1 := ((s.switchTo r).voice r v).line1 } := by
  have hlines := checkout_sameButLines r ⟨(switchRelease s).alloc, s.voices.get r, (switchRelease s).allocFail⟩ v
  rw [← switchCheckout, ← switchTo_bank_new h] at hlines
  exact hlines

theorem switchTo_voice_other {g : Family} (hg : g ≠ s.active) (hgr : g ≠ r) (v : Fin 8) :
    (s.switchTo r).voice g v = s.voice g v := by
  rw [switchTo_other h]
  simp only [State.voice, PerFamily.get_set_other _ _ hgr, PerFamily.get_set_other _ _ hg]

theorem switchTo_line_old (v : Fin 8) {k : Fin 2} (hk : k ∈ lineSlots s.active) :
    ((s.switchTo r).voice s.active v).line k = none := by
  rw [switchTo_line h, if_neg h.symm, if_pos rfl]
  exact release_ref _ _ hk

theorem switchTo_line_new (v : Fin 8) (k : Fin 2) :
    ((s.switchTo r).voice r v).line k = (switchCheckout s r).ref (v, k) := by
  rw [switchTo_line h, if_pos rfl]

theorem switchTo_pools : (s.switchTo r).pools = s.pools.set s.active emptyPool := by rw [switchTo_other h]

theorem switchTo_alloc : (s.switchTo r).alloc = (switchCheckout s r).alloc := by rw [switchTo_other h]

theorem switchTo_allocFail : (s.switchTo r).allocFail = (switchCheckout s r).allocFail := by rw [switchTo_other h]

end

/-- A switch, to the active family too, leaves that family active and changes voices, lines and pools. -/
theorem switchTo_frame (s : State) (r : Family) : s.switchTo r = { s with
    alloc := (s.switchTo r).alloc, allocFail := (s.switchTo r).allocFail, voices := (s.switchTo r).voices
    pools := (s.switchTo r).pools, active := r } := by
  by_cases h : r = s.active
  · rw [h, switchTo_active]
  · rw [switchTo_other h]

/-! ### APPLY -/

/-- The instrument request is taken, or there was none. -/
theorem applyInstrument_frame (s : State) : s.applyInstrument = { s with
    alloc := s.applyInstrument.alloc, allocFail := s.applyInstrument.allocFail, voices := s.applyInstrument.voices
    pools := s.applyInstrument.pools, active := if s.instrReq.valid then s.instrReq.fam else s.active
    instrReq := ⟨false, s.instrReq.fam⟩ } := by
  unfold State.applyInstrument
  cases hv : s.instrReq.valid with
  | true => exact switchTo_frame { s with instrReq := ⟨false, s.instrReq.fam⟩ } s.instrReq.fam
  | false =>
    have hs : { s with instrReq := ⟨false, s.instrReq.fam⟩ } = s := by rw [← hv]
    exact hs.symm

/-- The force-stop request is taken, or there was none. -/
theorem applyForceStop_frame (s : State) : s.applyForceStop =
    { s with voices := s.applyForceStop.voices, pools := s.applyForceStop.pools, fsaReq := false } := by
  unfold State.applyForceStop
  cases hf : s.fsaReq with
  | true => rfl
  | false =>
    have hs : { s with fsaReq := false } = s := by rw [← hf]
    exact hs.symm

theorem foldl_applyNote (Q : Vector NoteReq 128) (ns : List (Fin 128)) (s : State) :
    ns.foldl (State.applyNote Q) s = applyRequests Q ns s := by
  induction ns generalizing s with
  | nil => rfl
  | cons n ns ih =>
    rw [List.foldl_cons, ih, applyRequests]
    rfl

/-- APPLY is its three kinds of request in R742's order. -/
theorem applyStep_eq (s : State) : s.applyStep = { applyRequests s.req (List.finRange 128)
    { s.applyInstrument.applyForceStop with req := Vector.replicate 128 .none } with phase := .render } := by
  have hreq : s.applyInstrument.applyForceStop.req = s.req := by rw [applyForceStop_frame, applyInstrument_frame]
  rw [State.applyStep, foldl_applyNote, hreq, allSlots_eq]

/-- The notes of a block change voices, pools and lines only. -/
theorem applyStep_frame (s : State) : s.applyStep = { s with
    voices := s.applyStep.voices, delay := s.applyStep.delay, alloc := s.applyStep.alloc
    allocFail := s.applyStep.allocFail, pools := s.applyStep.pools
    active := if s.instrReq.valid then s.instrReq.fam else s.active
    req := Vector.replicate 128 .none, instrReq := ⟨false, s.instrReq.fam⟩, fsaReq := false, phase := .render } := by
  have hnotes := (voiceWork_foldl (applyNote_voiceWork s.applyInstrument.applyForceStop.req) allSlots
    { s.applyInstrument.applyForceStop with req := Vector.replicate 128 .none }).frame
  unfold State.applyStep
  dsimp only
  rw [hnotes, applyForceStop_frame, applyInstrument_frame]

end Sys2Proof.Machine

open Sys2Proof Sys2Proof.Machine Sys2Proof.Claims

/-- Settles O52: a switch is a force-stop, a Release and a Checkout, and these change voices in their lines only. -/
theorem instrumentSwitch : Obligations.InstrumentSwitch := by
  refine ⟨fun s r h => h ▸ switchTo_active s, fun s r h => ⟨switchTo_frame s r, ?_, fun g hg => ?_, ?_,
    switchTo_voice_old h, fun v k => switchTo_line_old h v, switchTo_voice_new h,
    fun g v hg hgr => switchTo_voice_other h hg hgr v, fun hf => ?_, fun v k hk hnone => ?_⟩, by decide, by decide⟩
  · rw [State.pool, switchTo_pools h]
    exact PerFamily.get_set_same _ _ _
  · rw [State.pool, switchTo_pools h]
    exact PerFamily.get_set_other _ _ hg
  · rw [← switchRelease_eq]
    exact ⟨switchTo_bank_old h, switchTo_bank_new h, switchTo_alloc h, switchTo_allocFail h⟩
  · rw [switchTo_allocFail h, switchCheckout_allocFail, hf, Bool.true_or]
  · rw [switchTo_line_new h] at hnone
    rw [switchTo_allocFail h]
    exact switchCheckout_missing hk hnone

/-- Settles O44: APPLY is its requests in R742's order, and each of them has its frame. -/
theorem applyStep : Obligations.ApplyStep := by
  intro s hp t s1 s2
  have ht : t = s.applyStep := engineStep_of_apply hp
  have hs1 : s1 = s.applyInstrument := rfl
  have hfsa : s1.fsaReq = s.fsaReq := by rw [hs1, applyInstrument_frame]
  have hs2 : s2 = s1.applyForceStop := by rw [State.applyForceStop, hfsa]
  rw [ht, hs2, hs1]
  exact ⟨applyStep_eq s, applyStep_frame s⟩

end

section
/-! RENDER (46_polysynth R743, 45_voices R626): the fold over the used voices in terms of the blocks that they give one after
another, and the emitted blocks (R745). -/

namespace Sys2Proof.Machine

open Sys2Proof.Claims

/-! ### The state after the voices -/

/-- t is s with the voices of vs, in family f, rendered: only they and the lines change. -/
structure RenderedOnly (f : Family) (vs : List (Fin 8)) (s t : State) : Prop where
  frame : t = { s with voices := t.voices, delay := t.delay }
  kept : ∀ g v, ¬(g = f ∧ v ∈ vs) → t.voice g v = s.voice g v

theorem rendered_only (f : Family) (vs : List (Fin 8)) (s : State) : RenderedOnly f vs s (rendered f vs s) := by
  induction vs generalizing s with
  | nil => exact ⟨rfl, fun _ _ _ => rfl⟩
  | cons v vs ih =>
    let b := voiceBlock s.voiceEnv f (s.voice f v) s.delay
    let s' : State := { s.setVoice f v b.voice with delay := b.delay }
    obtain ⟨hframe, hkept⟩ := ih s'
    refine ⟨hframe, fun g u h => (hkept g u fun hm => ?_).trans ?_⟩
    · exact h ⟨hm.1, List.mem_cons_of_mem v hm.2⟩
    · refine State.voice_setVoice_other s b.voice fun hm => h ⟨hm.1, ?_⟩
      rw [hm.2]
      exact List.mem_cons_self

section
variable (f : Family) (vs : List (Fin 8))

/-- What RENDER carries has the state that the blocks leave. -/
theorem foldl_renderVoice_state (R : Rendering) : (vs.foldl (renderVoice f) R).state = rendered f vs R.state := by
  induction vs generalizing R with
  | nil => rfl
  | cons v vs ih => exact ih (renderVoice f R v)

/-- After the first voice every block is added to main. -/
theorem foldl_renderVoice_main {R : Rendering} (h : R.first = false) :
    (vs.foldl (renderVoice f) R).main = (voiceBlocks f vs R.state).foldl (List.zipWith Fp.add) R.main := by
  induction vs generalizing R with
  | nil => rfl
  | cons v vs ih =>
    have hmix (ys : List F32) : mix R.first R.main ys = List.zipWith Fp.add R.main ys := by
      rw [h]
      rfl
    refine (ih (R := renderVoice f R v) rfl).trans ?_
    exact congrArg (List.foldl _ · _) (hmix _)

theorem mem_renderVoice_silent (R : Rendering) (u v : Fin 8) : v ∈ (renderVoice f R u).silent ↔
    v ∈ R.silent ∨ v = u ∧ reportsSilent R.state.cfg.val f ((renderVoice f R u).state.voice f u) = true := by
  have hu : (renderVoice f R u).state.voice f u = (voiceBlock R.state.voiceEnv f (R.state.voice f u) R.state.delay).voice :=
    State.voice_setVoice_same ..
  rw [hu, renderVoice]
  dsimp only
  split
  · rename_i h
    simp [h, or_comm]
  · rename_i h
    simp [h]

/-- A voice reports silent by its own block, since no other voice's block changes it. -/
theorem foldl_renderVoice_silent (hvs : vs.Nodup) (R : Rendering) (v : Fin 8) :
    v ∈ (vs.foldl (renderVoice f) R).silent ↔ v ∈ R.silent ∨
      v ∈ vs ∧ reportsSilent R.state.cfg.val f ((rendered f vs R.state).voice f v) = true := by
  induction vs generalizing R with
  | nil => simp [rendered]
  | cons u vs ih =>
    obtain ⟨hu, hvs⟩ := List.nodup_cons.1 hvs
    have hkept : (rendered f (u :: vs) R.state).voice f u = (renderVoice f R u).state.voice f u :=
      (rendered_only f vs (renderVoice f R u).state).kept f u fun h => hu h.2
    rw [List.foldl_cons, ih hvs, mem_renderVoice_silent, ← hkept, or_assoc, List.mem_cons, or_and_right]
    refine or_congr_right (or_congr_left (and_congr_right ?_))
    rintro rfl
    rfl

end

/-! ### RENDER -/

/-- The silence threshold that `reportsSilent` compares with, in words of the configuration. -/
theorem threshold_eq (p : Config.Params) (f : Family) : threshold p f = silenceThreshold p f := by
  cases f <;> rfl

theorem reportsSilent_iff (p : Config.Params) (f : Family) (V : Voice) : reportsSilent p f V = true ↔
    V.sustaining = false ∧ Fp.lt V.peak (silenceThreshold p f) = true := by
  rw [reportsSilent, threshold_eq, Bool.and_eq_true, Bool.not_eq_true']

section
variable (s : State) (f : Family)

theorem renderVoices_state : (s.renderVoices f).state = rendered f (s.pool f).used s :=
  foldl_renderVoice_state f _ _

theorem renderVoices_main_nil (h : (s.pool f).used = []) : (s.renderVoices f).main = silence s.cfg.val.block := by
  rw [State.renderVoices, h]
  rfl

/-- The first voice's block overwrites main. -/
theorem renderVoices_main_cons {ys : List F32} {rest : List (List F32)}
    (h : voiceBlocks f (s.pool f).used s = ys :: rest) :
    (s.renderVoices f).main = rest.foldl (List.zipWith Fp.add) ys := by
  unfold State.renderVoices
  cases hu : (s.pool f).used with
  | nil =>
    rw [hu] at h
    exact absurd h nofun
  | cons v vs =>
    rw [hu] at h
    obtain ⟨rfl, rfl⟩ := List.cons.inj h
    exact foldl_renderVoice_main f vs (R := renderVoice f ⟨s, true, silence s.cfg.val.block, []⟩ v) rfl

/-- main has B samples. -/
theorem renderVoices_main_length : (s.renderVoices f).main.length = s.cfg.val.block := by
  have hmix {first : Bool} {main ys : List F32} {n : Nat} (hm : main.length = n) (hy : ys.length = n) :
      (mix first main ys).length = n := by
    cases first with
    | true => exact hy
    | false => exact List.length_zipWith.trans (by rw [hm, hy, Nat.min_self])
  have hfold : (s.renderVoices f).state.cfg = s.cfg ∧ (s.renderVoices f).main.length = s.cfg.val.block := by
    refine List.foldlRecOn _ (renderVoice f) (motive := fun R => R.state.cfg = s.cfg ∧ R.main.length = s.cfg.val.block)
      ⟨rfl, List.length_replicate⟩ fun R ⟨hc, hm⟩ v _ => ⟨?_, ?_⟩
    · exact hc
    · exact hmix hm ((voiceBlock_length ..).trans (congrArg (·.val.block) hc))
  exact hfold.2

end

/-- RENDER as an update of the state. -/
theorem renderStep_eq (s : State) : s.renderStep = { s with
    voices := (rendered s.active (s.pool s.active).used s).voices
    delay := (rendered s.active (s.pool s.active).used s).delay
    pools := s.pools.set s.active (removeSilent (s.renderVoices s.active).silent (s.pool s.active))
    phase := .idle
    emitted := s.emitted ++ [⟨(s.renderVoices s.active).main, silence s.cfg.val.block⟩] } := by
  unfold State.renderStep
  dsimp only
  rw [renderVoices_state, (rendered_only s.active (s.pool s.active).used s).frame]
  rfl

/-- Every block that a step emits is well sized, and comes from RENDER or from a tick in STOP mode. -/
theorem engineStep_emitted (s : State) : s.engineStep.emitted = s.emitted ∨ ∃ b : OutBlock,
    s.engineStep.emitted = s.emitted ++ [b] ∧ b.main.length = s.cfg.val.block ∧ b.aux = silence s.cfg.val.block ∧
      (s.phase = .render ∨ s.phase = .idle ∧ s.engineStep.mode = .stop) := by
  by_cases hr : s.phase = .render
  · rw [engineStep_of_render hr, renderStep_eq]
    exact .inr ⟨_, rfl, renderVoices_main_length s s.active, rfl, .inl hr⟩
  have he := engineStep_cases s
  generalize s.engineStep = t at he ⊢
  cases he with
  | start | swap | unassigned | callback => exact .inl rfl
  | silent hp => exact .inr ⟨_, rfl, List.length_replicate, rfl, .inr ⟨hp, rfl⟩⟩
  | apply t _ hw =>
    have hkept : t.emitted = s.emitted := by rw [hw.frame]
    exact .inl hkept
  | render _ _ hp => exact absurd hp hr

/-- Only one agent moves. -/
theorem not_engineMoves {s : State} (h : HostMoves s ∨ s.sched.head? = some .reset) : ¬EngineMoves s := by
  unfold HostMoves at h
  rintro (he | ⟨hs, hw⟩)
  · rw [he] at h
    obtain (h | ⟨hs, -⟩) | h := h
    · exact absurd h (by decide)
    · rw [hs] at he
      exact absurd he nofun
    · exact absurd h (by decide)
  · rw [hs] at h
    obtain (h | ⟨-, hn⟩) | h := h
    · exact absurd h nofun
    · exact hn hw
    · exact absurd h nofun

end Sys2Proof.Machine

open Sys2Proof Sys2Proof.Machine Sys2Proof.Claims

/-- Settles O45: RENDER as an update of the state, with the blocks that its fold carries. -/
theorem renderStep : Obligations.RenderStep := by
  intro s hp hpools t f zeros
  have ht : t = s.renderStep := engineStep_of_render hp
  rw [ht, renderStep_eq]
  have hnodup : (s.pool f).used.Nodup := PolySynth.Partition.used_nodup (hpools f)
  obtain ⟨hframe, hkept⟩ := rendered_only f (s.pool f).used s
  refine ⟨(s.renderVoices f).main, (s.renderVoices f).silent, rfl, rfl, rfl, renderVoices_main_length s f, fun hnil => ?_,
    fun ys rest h => renderVoices_main_cons s f h, fun v => ?_, PerFamily.get_set_same _ _ _,
    fun v hv => hkept f v fun h => hv h.2,
    fun g hg => ⟨PerFamily.get_set_other _ _ hg, fun v => hkept g v fun h => hg h.1⟩⟩
  · refine ⟨renderVoices_main_nil s f hnil, ?_, ?_⟩
    · rw [hnil]
      rfl
    · rw [hnil]
      rfl
  · refine (foldl_renderVoice_silent f _ hnodup ⟨s, true, zeros, []⟩ v).trans ?_
    rw [reportsSilent_iff]
    exact or_iff_right (List.not_mem_nil)

/-- Settles O46: no command and no reset emits, and an ENGINE step emits at most its one block. -/
theorem emissionHistory : Obligations.EmissionHistory := by
  intro s t h
  obtain ⟨sched, ⟨-, hhost⟩ | ⟨hmoves, rfl⟩ | ⟨-, rfl⟩⟩ := step_moves h
  · have hkept := (hostStep_engineOnlyKept hhost).emitted
    exact ⟨.inl hkept, fun _ => hkept⟩
  · exact ⟨engineStep_emitted { s with sched := sched }, fun hother => absurd hmoves (not_engineMoves hother)⟩
  · exact ⟨.inl rfl, fun _ => rfl⟩

end

section
/-! The requests of UNIT 0 (46_polysynth R700–R703, 48_engine_control R850, R853, R854). -/

open Sys2Proof Sys2Proof.Machine Sys2Proof.Claims

/-- Settles O14: each command sets one entry of REQ and is accepted in any state. -/
theorem noteRequests : Obligations.NoteRequests := by
  intro s ch note vel
  have hset (x : NoteReq) : (s.req.set note x)[note] = x ∧ ∀ m : Fin 128, m ≠ note → (s.req.set note x)[m] = s.req[m] :=
    ⟨Vector.getElem_set_self _, fun m hm => Vector.getElem_set_ne _ _ fun e => hm (Fin.ext e.symm)⟩
  exact ⟨⟨_, rfl, hset _⟩, _, rfl, hset _⟩

/-- Settles O15: FAM 0, 1 and 2 are families and 3 is none; the other commands have no operand. -/
theorem engineRequests : Obligations.EngineRequests := by
  intro s
  have hfam {n : Nat} {f : Family} (h : familyOf n = some f) :
      exec (.setInstrument n) s = .next (completed { s with instrReq := ⟨true, f⟩ } 0#32) :=
    congrArg Host.Outcome.next (State.onFamily_some h _)
  exact ⟨hfam familyOf_zero, hfam familyOf_one, hfam familyOf_two,
    congrArg Host.Outcome.next (State.onFamily_none (familyOf_eq_none.2 (Nat.le_refl 3)) _), rfl, rfl, rfl, rfl⟩

end

section
/-! The parameter commands (47_params R801–R805, R810): what Mutate leaves, and that PARAM_GET leaves RAW and the table. -/

namespace Sys2Proof.Machine

open Sys2Proof.Claims

/-! ### The dirty bits -/

/-- The mask of a slot has, of the slots of its word, that slot's bit only. -/
theorem getLsbD_slotMask {slot u : Fin 128} (hg : dirtyGroup slot = dirtyGroup u) :
    (1#32 <<< dirtyIndex slot).getLsbD (dirtyIndex u) = decide (u = slot) := by
  have hgroup : slot.val / 32 = u.val / 32 := congrArg Fin.val hg
  have hindex : dirtyIndex u = dirtyIndex slot ↔ u = slot := by
    unfold dirtyIndex
    omega
  have hlt : dirtyIndex u < 32 := Nat.mod_lt _ (by decide)
  simp [← BitVec.twoPow_eq, hindex, hlt]

/-- Setting a slot's bit sets that bit and no other. -/
theorem slotBit_setSlotBit (d : Vector Word 4) (slot u : Fin 128) :
    slotBit (setSlotBit d slot) u = (slotBit d u || decide (u = slot)) := by
  by_cases hg : dirtyGroup slot = dirtyGroup u
  · simp only [slotBit, setSlotBit, ← hg, Fin.getElem_fin, Vector.getElem_set_self, BitVec.getLsbD_or, getLsbD_slotMask hg]
  · have hne : u ≠ slot := fun e => hg (e ▸ rfl)
    have hval : (dirtyGroup slot).val ≠ (dirtyGroup u).val := fun e => hg (Fin.ext e)
    simp [slotBit, setSlotBit, hne, Vector.getElem_set_ne _ _ hval]

/-! ### Mutate -/

/-- The three mutations are Mutate of their slot with the new value that their rules give. -/
theorem exec_of_mutation {s : State} {i : Instr} {slot : Fin 128} {row : Config.ParamRow} {new : Int}
    (hrow : s.cfg.val.table[slot.val]? = some row) (h : mutation s row i = some (slot, new)) :
    exec i s = .next (mutate s slot row new) := by
  unfold mutation at h
  split at h
  case h_1 | h_3 =>
    cases h
    exact congrArg Host.Outcome.next (State.onSlot_assigned hrow _)
  case h_2 alt _ =>
    cases h
    cases alt <;> exact congrArg Host.Outcome.next (State.onSlot_assigned hrow _)
  case h_4 => exact nomatch h

section
variable {s : State} {slot : Fin 128} {row : Config.ParamRow}

theorem slot_lt_raw (h : RawInRange s) (hrow : s.cfg.val.table[slot.val]? = some row) : slot.val < s.raw.length :=
  h.1 ▸ (List.getElem?_eq_some_iff.1 hrow).1

theorem mutate_rawAt (h : RawInRange s) (hrow : s.cfg.val.table[slot.val]? = some row) (new : Int) :
    (mutate s slot row new).rawAt slot = Fp.clampInt new row.minVal row.maxVal := by
  have hmem := List.mem_of_getElem? hrow
  obtain ⟨-, hmin, hmax, -⟩ := row_bounds s.cfg hmem
  obtain ⟨hlo, hhi⟩ := DelayPool.clampInt_bounds (n := new) (hmin.trans hmax)
  simp only [State.rawAt, mutate, State.accept_raw, List.getD_eq_getElem?_getD,
    List.getElem?_set_self (slot_lt_raw h hrow), Option.getD_some, toInt_ofInt_of_row s.cfg hmem hlo hhi]

theorem mutate_slotBit_same (new : Int) : slotBit (mutate s slot row new).dirty slot =
    (slotBit s.dirty slot || decide (Fp.clampInt new row.minVal row.maxVal ≠ s.rawAt slot)) := by
  by_cases h : Fp.clampInt new row.minVal row.maxVal = s.rawAt slot
  · simp [mutate, h]
  · simp [mutate, h, slotBit_setSlotBit]

theorem mutate_slotBit_other (new : Int) {u : Fin 128} (hu : u ≠ slot) :
    slotBit (mutate s slot row new).dirty u = slotBit s.dirty u := by
  by_cases h : Fp.clampInt new row.minVal row.maxVal = s.rawAt slot
  · simp [mutate, h]
  · simp [mutate, h, slotBit_setSlotBit, hu]

theorem exec_paramAdd (hrow : s.cfg.val.table[slot.val]? = some row) (delta : Word) :
    exec (.paramAdd slot false delta) s = .next (mutate s slot row (s.rawAt slot + delta.toInt * row.step)) :=
  exec_of_mutation hrow (by rw [mutation, mul_one])

/-! ### Sums that are not clamped -/

theorem clampInt_of_mem {n lo hi : Int} (hlo : lo ≤ n) (hhi : n ≤ hi) : Fp.clampInt n lo hi = n := by
  rw [DelayPool.clampInt_eq (hlo.trans hhi), min_eq_left hhi, max_eq_right hlo]

theorem mutate_raw_of_mem {new : Int} (hlo : row.minVal ≤ new) (hhi : new ≤ row.maxVal) :
    (mutate s slot row new).raw = s.raw.set slot (BitVec.ofInt 32 new) := by
  simp only [mutate, clampInt_of_mem hlo hhi, State.accept_raw]

theorem ofInt_rawAt {i : Nat} (h : i < s.raw.length) : BitVec.ofInt 32 (s.rawAt i) = s.raw[i] := by
  rw [State.rawAt, BitVec.ofInt_toInt, List.getD_eq_getElem _ _ h]

end

/-! ### PARAM_GET -/

theorem exec_paramGet {s : State} {slot : Fin 128} (h : slot.val < s.cfg.val.table.length) :
    exec (.paramGet slot) s = .next (s.accept (s.raw.getD slot 0#32)) :=
  congrArg Host.Outcome.next (State.onSlot_assigned (List.getElem?_eq_getElem h) _)

/-- Any number of PARAM_GETs answer RAW: none of them changes it. -/
theorem responses_paramGets (slots : List (Fin 128)) (s : State) (h : ∀ slot ∈ slots, slot.val < s.cfg.val.table.length) :
    responses (slots.map .paramGet) s = slots.map fun slot => s.raw.getD slot 0#32 := by
  induction slots generalizing s with
  | nil => rfl
  | cons slot slots ih =>
    obtain ⟨hslot, hslots⟩ := List.forall_mem_cons.1 h
    simp only [List.map_cons, responses, exec_paramGet hslot, State.accept_result]
    rw [ih (s.accept _) hslots]
    rfl

end Sys2Proof.Machine

open Sys2Proof Sys2Proof.Machine Sys2Proof.Claims

/-- Settles O18: each mutation is Mutate of its slot, which clamps, stores, answers and sets the dirty bit on a change. -/
theorem paramMutation : Obligations.ParamMutation := by
  have hrefused (s : State) (slot : Fin 128) (h : s.cfg.val.table.length ≤ slot.val) (pass : Config.ParamRow → State) :
      Host.Outcome.next (s.onSlot slot pass) = (.next (refused s .illegalArg) : Result) :=
    congrArg Host.Outcome.next (State.onSlot_unassigned h pass)
  refine ⟨fun s slot alt x h => ⟨hrefused s slot h _, hrefused s slot h _, hrefused s slot h _⟩,
    fun s i slot row new hraw hrow hi => ?_⟩
  obtain ⟨-, hmin, hmax, -⟩ := row_bounds s.cfg (List.mem_of_getElem? hrow)
  rw [← DelayPool.clampInt_eq (hmin.trans hmax)]
  have hstored := mutate_rawAt hraw hrow new
  have hbit := mutate_slotBit_same (s := s) (slot := slot) (row := row) new
  rw [← hstored] at hbit
  exact ⟨_, _, exec_of_mutation hrow hi, hstored, List.length_set .., fun j hj => List.getElem?_set_ne (Ne.symm hj),
    hbit, fun u hu => mutate_slotBit_other new hu⟩

/-- Settles O20: neither sum is clamped, and the second is the old value. -/
theorem paramAddRoundTrip : Obligations.ParamAddRoundTrip := by
  intro s t u slot row delta back hraw hrow hback hlo hhi ht hu
  obtain ⟨hold, hold'⟩ := hraw.2 slot row hrow
  obtain rfl := Host.Outcome.next.inj ((exec_paramAdd hrow delta).symm.trans ht)
  have hback' : (s.rawAt slot + delta.toInt * row.step) + back.toInt * row.step = s.rawAt slot := by
    rw [hback]
    ring
  have hsecond := exec_paramAdd (s := mutate s slot row (s.rawAt slot + delta.toInt * row.step)) hrow back
  rw [mutate_rawAt hraw hrow, clampInt_of_mem hlo hhi, hback'] at hsecond
  obtain rfl := Host.Outcome.next.inj (hsecond.symm.trans hu)
  rw [mutate_raw_of_mem hold hold', mutate_raw_of_mem hlo hhi, List.set_set, ofInt_rawAt (slot_lt_raw hraw hrow),
    List.set_getElem_self]

/-- Settles O19: PARAM_GET answers the slot's RAW, which at reset holds the defaults of the table. -/
theorem paramGet : Obligations.ParamGet := by
  refine ⟨fun s slot w hraw hw => ?_, ?_, fun s slot h => congrArg Host.Outcome.next (State.onSlot_unassigned h _)⟩
  · obtain ⟨hlt, -⟩ := List.getElem?_eq_some_iff.1 hw
    rw [exec_paramGet (hraw.1 ▸ hlt), List.getD_eq_getElem?_getD, hw]
    rfl
  · have hassigned : ∀ slot ∈ (List.range 31).map (Fin.ofNat 128), slot.val < State.reset.cfg.val.table.length := by
      intro slot hslot
      obtain ⟨i, hi, rfl⟩ := List.mem_map.1 hslot
      exact (Nat.mod_le i 128).trans_lt (List.mem_range.1 hi)
    have hanswers := responses_paramGets _ State.reset hassigned
    rw [List.map_map] at hanswers
    exact hanswers.trans (by decide)

end

section
/-! CALLBACK (46_polysynth R741, 47_params R811, R821): LIVE from the current RAW, then the effect of the slot's class. -/

namespace Sys2Proof.Machine

open Sys2Proof.Claims

/-! ### Live values -/

theorem liveOf_eq_liveValue (row : Config.ParamRow) (raw : Int) : liveOf row raw = liveValue row raw := by
  unfold liveOf liveValue
  cases row.kind <;> rfl

theorem LiveVal.asF32_eq_f32Of (x : LiveVal) : x.asF32 = f32Of x := by cases x <;> rfl

/-- An integer in 0 .. 4 is its own stage count. -/
theorem stagesOf_asStages (x : LiveVal) : StagesOf x x.asStages := by
  refine ⟨asStages_le x, fun n hx hlo hhi => ?_⟩
  rw [hx, LiveVal.asStages, LiveVal.asInt, clampInt_of_mem hlo hhi, Int.toNat_of_nonneg hlo]

/-! ### What the live values of a family set -/

theorem dispersionSet_dispFromLive (t : List Config.ParamRow) (live : List LiveVal) (f : Family) (D : Dispersion) :
    DispersionSet D (liveByClass t live (.disp .stages) f).asStages
      (keptGroupDelay (f32Of (liveByClass t live (.disp .groupDelay) f))) (dispFromLive t live f D) := by
  rw [dispFromLive, LiveVal.asF32_eq_f32Of]
  generalize (liveByClass t live (.disp .stages) f).asStages = m
  obtain ⟨hm, -, hvs, -⟩ := dispersionSet_dpSetStages D m
  obtain ⟨hm', hgd, hvs', hre⟩ := dispersionSet_dpSetGD (dpSetStages D m)
    (f32Of (liveByClass t live (.disp .groupDelay) f))
  exact ⟨hm'.trans hm, hgd, hvs'.trans hvs, hre⟩

theorem envFromLive_eq (p : Config.Params) (live : List LiveVal) (f : Family) : envFromLive p live f =
    ⟨envelopeCoef p (f32Of (liveByClass p.table live (.env .attack) f)),
      envelopeCoef p (f32Of (liveByClass p.table live (.env .release) f))⟩ := by
  simp only [envFromLive, LiveVal.asF32_eq_f32Of]
  rfl

theorem setEnvCoefs_by_family (s : State) (f : Family) (k : EnvCoefs) :
    (f = .string → (s.setEnvCoefs f k).envReed = s.envReed ∧ (s.setEnvCoefs f k).envBow = s.envBow) ∧
    (f = .reed → (s.setEnvCoefs f k).envReed = k ∧ (s.setEnvCoefs f k).envBow = s.envBow) ∧
    (f = .bow → (s.setEnvCoefs f k).envBow = k ∧ (s.setEnvCoefs f k).envReed = s.envReed) := by
  refine ⟨?_, ?_, ?_⟩ <;> rintro rfl <;> exact ⟨rfl, rfl⟩

/-! ### The effect by class -/

section
variable {s : State} {row : Config.ParamRow} {lv : LiveVal}

theorem callbackEffect_of_live (h : row.cb = .live) : s.callbackEffect row lv = s := by
  rw [State.callbackEffect, h]

theorem callbackEffect_of_loss (h : row.cb = .loss) : s.callbackEffect row lv = s.mapVoices row.fam fun V =>
    { V with loss := lfSetCutoff s.cfg.val (lossKind row.fam) V.loss (f32Of lv) } := by
  rw [State.callbackEffect, h, LiveVal.asF32_eq_f32Of]

theorem callbackEffect_of_lossType (h : row.cb = .lossType) : s.callbackEffect row lv = s.mapVoices row.fam fun V =>
    { V with loss := lfSetType s.cfg.val V.loss (lossTypeOf lv.asInt) } := by
  rw [State.callbackEffect, h]

theorem callbackEffect_of_disp {role : Config.DispRole} (h : row.cb = .disp role) :
    s.callbackEffect row lv = s.mapVoices row.fam fun V =>
      { V with disp := dispFromLive s.cfg.val.table s.live row.fam V.disp } := by
  rw [State.callbackEffect, h]

theorem callbackEffect_of_env {role : Config.EnvRole} (h : row.cb = .env role) :
    s.callbackEffect row lv = s.setEnvCoefs row.fam (envFromLive s.cfg.val s.live row.fam) := by
  rw [State.callbackEffect, h]

/-- A callback changes voices of its family only. -/
theorem callbackEffect_voice_other {g : Family} (hg : g ≠ row.fam) (v : Fin 8) :
    (s.callbackEffect row lv).voice g v = s.voice g v := by
  cases h : row.cb with
  | live => rw [callbackEffect_of_live h]
  | loss => rw [callbackEffect_of_loss h, State.voice_mapVoices_other _ _ _ hg]
  | lossType => rw [callbackEffect_of_lossType h, State.voice_mapVoices_other _ _ _ hg]
  | disp => rw [callbackEffect_of_disp h, State.voice_mapVoices_other _ _ _ hg]
  | env => rw [callbackEffect_of_env h, State.voice, State.setEnvCoefs_voices, State.voice]

/-- A callback that is not of class ENV sets no envelope coefficients. -/
theorem callbackEffect_env_kept (hcb : ∀ role, row.cb ≠ .env role) :
    (s.callbackEffect row lv).envReed = s.envReed ∧ (s.callbackEffect row lv).envBow = s.envBow := by
  cases h : row.cb with
  | live => rw [callbackEffect_of_live h]; exact ⟨rfl, rfl⟩
  | loss => rw [callbackEffect_of_loss h]; exact ⟨rfl, rfl⟩
  | lossType => rw [callbackEffect_of_lossType h]; exact ⟨rfl, rfl⟩
  | disp => rw [callbackEffect_of_disp h]; exact ⟨rfl, rfl⟩
  | env role => exact absurd h (hcb role)

/-- LOSS sets the cutoff of every voice of the family. -/
theorem callbackEffect_loss_voice (h : row.cb = .loss) (v : Fin 8) : ∃ F,
    (s.callbackEffect row lv).voice row.fam v = { s.voice row.fam v with loss := F } ∧
      CutoffSet s.cfg.val row.fam (s.voice row.fam v).loss (f32Of lv) F := by
  rw [callbackEffect_of_loss h, State.voice_mapVoices_same]
  exact ⟨_, rfl, cutoffSet_lfSetCutoff _ _ _ _⟩

/-- LOSSTYPE sets the type of every voice of the family. -/
theorem callbackEffect_lossType_voice (h : row.cb = .lossType) (v : Fin 8) : ∃ F,
    (s.callbackEffect row lv).voice row.fam v = { s.voice row.fam v with loss := F } ∧
      TypeSet s.cfg.val (s.voice row.fam v).loss (lossTypeOf lv.asInt) F := by
  rw [callbackEffect_of_lossType h, State.voice_mapVoices_same]
  exact ⟨_, rfl, typeSet_lfSetType _ _ _⟩

/-- DISP sets the stages and the group delay of every voice of the family, from LIVE of both slots of the pair. -/
theorem callbackEffect_disp_voice {role : Config.DispRole} (h : row.cb = .disp role) (v : Fin 8) : ∃ E,
    (s.callbackEffect row lv).voice row.fam v = { s.voice row.fam v with disp := E } ∧
      DispersionSet (s.voice row.fam v).disp (liveByClass s.cfg.val.table s.live (.disp .stages) row.fam).asStages
        (keptGroupDelay (f32Of (liveByClass s.cfg.val.table s.live (.disp .groupDelay) row.fam))) E := by
  rw [callbackEffect_of_disp h, State.voice_mapVoices_same]
  exact ⟨_, rfl, dispersionSet_dispFromLive _ _ _ _⟩

end

/-! ### The step -/

/-- What a callback's effect starts from: the slot's SNAP bit cleared, and its live value that of RAW now. -/
def liveWritten (s : State) (slot : Fin 128) (row : Config.ParamRow) : State :=
  { s with snap := clearSlotBit s.snap slot, live := s.live.set slot (liveValue row (s.rawAt slot)) }

theorem runCallback_assigned {s : State} {slot : Fin 128} {row : Config.ParamRow}
    (hrow : s.cfg.val.table[slot.val]? = some row) : s.runCallback slot =
      State.callbackEffect { s with live := s.live.set slot (liveValue row (s.rawAt slot)) } row
        (liveValue row (s.rawAt slot)) := by
  simp only [State.runCallback, hrow, liveOf_eq_liveValue]

theorem engineStep_of_callback {s : State} {slot : Fin 128} {row : Config.ParamRow} (hp : s.phase = .callback slot)
    (hrow : s.cfg.val.table[slot.val]? = some row) :
    s.engineStep = { (liveWritten s slot row).callbackEffect row (liveValue row (s.rawAt slot)) with
      phase := nextPhase (clearSlotBit s.snap slot) (slot.val + 1) } := by
  have hstep : s.engineStep = s.callbackStep slot := by simp only [State.engineStep, hp]
  rw [hstep, State.callbackStep, runCallback_assigned (s := { s with snap := clearSlotBit s.snap slot }) hrow]
  rfl

end Sys2Proof.Machine

open Sys2Proof Sys2Proof.Machine Sys2Proof.Claims

/-- Settles O43: the step writes LIVE, clears the slot's bit, has its class's effect and goes to the next set bit. -/
theorem callbackStep : Obligations.CallbackStep := by
  intro s slot row hp hrow hlen t f new now
  obtain ⟨u, hu⟩ : ∃ u, u = (liveWritten s slot row).callbackEffect row new := ⟨_, rfl⟩
  have ht : t = { u with phase := nextPhase (clearSlotBit s.snap slot) (slot.val + 1) } :=
    hu ▸ engineStep_of_callback hp hrow
  have hframe : u = { liveWritten s slot row with voices := u.voices, envReed := u.envReed, envBow := u.envBow } :=
    hu ▸ (callbackEffect_work (liveWritten s slot row) row new).frame
  have hphase : t.phase = nextPhase (clearSlotBit s.snap slot) (slot.val + 1) := by rw [ht]
  have hvoices : t.voices = u.voices := by rw [ht]
  have hvoice (g : Family) (v : Fin 8) : t.voice g v = u.voice g v := by rw [State.voice, hvoices, State.voice]
  have hreed : t.envReed = u.envReed := by rw [ht]
  have hbow : t.envBow = u.envBow := by rw [ht]
  have hlive : t.live = (liveWritten s slot row).live := by rw [ht, hframe]
  have hsnap : t.snap = clearSlotBit s.snap slot := by rw [ht, hframe, liveWritten]
  have hnow : now = liveByClass s.cfg.val.table (liveWritten s slot row).live :=
    congrArg (liveByClass s.cfg.val.table) hlive
  have hslot : slot.val < s.live.length := hlen ▸ (List.getElem?_eq_some_iff.1 hrow).1
  refine ⟨?_, ?_, fun j hj => ?_, ?_, fun w hw => ?_, ?_, fun g v hg => ?_, fun hcb => ?_, fun hcb => ?_,
    fun hcb v => ?_, fun hcb v => ?_, fun role hcb => ?_, fun role hcb => ?_⟩
  · rw [hvoices, hreed, hbow, hlive, hsnap, hphase, ht, hframe, liveWritten]
  · rw [hlive, liveWritten, List.getElem?_set_self hslot]
  · rw [hlive, liveWritten, List.getElem?_set_ne (Ne.symm hj)]
  · simp [hsnap, slotBit_clearSlotBit]
  · simp [hsnap, slotBit_clearSlotBit, hw]
  · rw [hsnap, hphase]
    exact nextPhase_spec _ _
  · rw [hvoice, hu]
    exact callbackEffect_voice_other hg v
  · rw [hreed, hbow, hu]
    exact callbackEffect_env_kept hcb
  · rw [hvoices, hu, callbackEffect_of_live hcb, liveWritten]
  · rw [hvoice, hu]
    exact callbackEffect_loss_voice hcb v
  · rw [hvoice, hu]
    obtain ⟨F, hF, hset⟩ := callbackEffect_lossType_voice (s := liveWritten s slot row) (lv := new) hcb v
    have hty : F.ty = lossTypeOf new.asInt := hset.1
    exact ⟨F, hF, hset, fun h => by rw [hty, h]; rfl, fun h => by rw [hty, h]; rfl⟩
  · rw [hnow]
    refine ⟨_, stagesOf_asStages _, fun v => ?_⟩
    rw [hvoice, hu]
    exact callbackEffect_disp_voice hcb v
  · rw [hvoices, hreed, hbow, hnow, hu, callbackEffect_of_env hcb, envFromLive_eq]
    exact ⟨State.setEnvCoefs_voices _ _ _, setEnvCoefs_by_family _ _ _⟩

end

section
/-! A word made of fields at places of their own (10_state R120): each field is read back as the value that was placed in
it. -/

namespace Sys2Proof

/-- A value and the bits hi..lo that it is placed in. -/
structure WordField where
  value : Nat
  hi : Nat
  lo : Nat

namespace WordField

/-- The bits lie in a word and can hold the value. -/
def Fits (f : WordField) : Prop := f.hi < 32 ∧ f.value < 2 ^ (f.hi + 1 - f.lo)

def mask (f : WordField) : Word := fieldMask f.hi f.lo

/-- The fields' values at their places. -/
def word (fs : List WordField) : Word := fs.foldr (fun f w => place f.value f.lo ||| w) 0#32

variable {f : WordField} {fs : List WordField} {hi lo : Nat}

theorem word_cons (f : WordField) (fs : List WordField) : word (f :: fs) = place f.value f.lo ||| word fs := rfl

theorem fits_of_lt {n : Nat} (hhi : hi < 32) (hn : n < 2 ^ (hi + 1 - lo)) : Fits ⟨n, hi, lo⟩ := ⟨hhi, hn⟩

theorem fits_bit (b : Bool) {k : Nat} (hk : k < 32) : Fits ⟨b.toNat, k, k⟩ := ⟨hk, by simpa using b.toNat_lt⟩

theorem fieldOf_place_apart (hhi : hi < 32) (hfits : f.Fits) (hapart : f.mask &&& fieldMask hi lo = 0#32) :
    fieldOf (place f.value f.lo) hi lo = 0 := by
  rw [← fieldOf_and_fieldMask hhi, place_and_eq_zero hfits.1 hfits.2 hapart]
  simp [fieldOf]

theorem fieldOf_word_apart (hhi : hi < 32) (hfits : ∀ f ∈ fs, f.Fits)
    (hapart : ∀ m ∈ fs.map mask, m &&& fieldMask hi lo = 0#32) : fieldOf (word fs) hi lo = 0 := by
  induction fs with
  | nil => simp [word, fieldOf]
  | cons f fs ih =>
    obtain ⟨hf, hfs⟩ := List.forall_mem_cons.1 hfits
    obtain ⟨ha, has⟩ := List.forall_mem_cons.1 hapart
    rw [word_cons, fieldOf_or, fieldOf_place_apart hhi hf ha, ih hfs has, Nat.or_zero]

/-- If no two fields share a bit, every field of the word is its value. -/
theorem fieldOf_word (hfits : ∀ f ∈ fs, f.Fits) (hapart : (fs.map mask).Pairwise fun m n => m &&& n = 0#32) :
    ∀ f ∈ fs, fieldOf (word fs) f.hi f.lo = f.value := by
  induction fs with
  | nil => nofun
  | cons f fs ih =>
    obtain ⟨hf, hfs⟩ := List.forall_mem_cons.1 hfits
    obtain ⟨ha, has⟩ := List.pairwise_cons.1 hapart
    refine List.forall_mem_cons.2 ⟨?_, fun g hg => ?_⟩
    · have hrest : fieldOf (word fs) f.hi f.lo = 0 :=
        fieldOf_word_apart hf.1 hfs fun m hm => (BitVec.and_comm _ _).trans (ha m hm)
      rw [word_cons, fieldOf_or, fieldOf_place hf.1 hf.2, hrest, Nat.or_zero]
    · have hfirst : fieldOf (place f.value f.lo) g.hi g.lo = 0 :=
        fieldOf_place_apart (hfs g hg).1 hf (ha _ (List.mem_map_of_mem hg))
      rw [word_cons, fieldOf_or, hfirst, ih hfs has g hg, Nat.zero_or]

end WordField

theorem getLsbD_of_fieldOf {w : Word} {k : Nat} {b : Bool} (h : fieldOf w k k = b.toNat) : w.getLsbD k = b := by
  have hbit := testBit_fieldOf w k k 0
  rw [h] at hbit
  cases b <;> simpa using hbit.symm

end Sys2Proof
end

section
/-! The STATUS word and the two commands that answer it (48_engine_control R851, R852, R855). -/

namespace Sys2Proof.Machine

open Sys2Proof.Claims Sys2Proof.WordField

/-- The fields of STATUS at the bits of 10_state R120; the reserved bits are fields that hold 0. -/
def statusFields (s : State) : List WordField :=
  [⟨s.allocFail.toNat, 0, 0⟩, ⟨s.cmdErr.toNat, 1, 1⟩, ⟨0, 3, 2⟩, ⟨s.lastErr.code, 7, 4⟩,
    ⟨(s.pool s.active).used.length, 11, 8⟩, ⟨familyCode s.active, 13, 12⟩, ⟨modeCode s.mode, 14, 14⟩,
    ⟨s.stopReq.toNat, 15, 15⟩, ⟨s.alloc.avail.length, 23, 16⟩, ⟨s.instrReq.valid.toNat, 24, 24⟩,
    ⟨s.fsaReq.toNat, 25, 25⟩, ⟨if s.phase = .idle then 0 else 1, 26, 26⟩, ⟨0, 31, 27⟩]

/-- The bits that the fields of STATUS take, in every state. -/
def statusMasks : List Word :=
  [fieldMask 0 0, fieldMask 1 1, fieldMask 3 2, fieldMask 7 4, fieldMask 11 8, fieldMask 13 12, fieldMask 14 14,
    fieldMask 15 15, fieldMask 23 16, fieldMask 24 24, fieldMask 25 25, fieldMask 26 26, fieldMask 31 27]

theorem statusWord_eq_word (s : State) : statusWord s = word (statusFields s) := by
  simp only [statusWord, statusFields, word, List.foldr, place_zero, BitVec.or_assoc, BitVec.zero_or, BitVec.or_zero]
  rfl

theorem map_mask_statusFields (s : State) : (statusFields s).map mask = statusMasks := rfl

theorem statusFields_apart (s : State) : ((statusFields s).map mask).Pairwise fun m n => m &&& n = 0#32 := by
  rw [map_mask_statusFields]
  decide

/-! ### The values -/

theorem errorCode_eq (c : ErrCode) : c.code = errorNumber c := by cases c <;> rfl

theorem errorNumber_lt (c : ErrCode) : errorNumber c < 2 ^ 4 := by cases c <;> decide

theorem familyCode_eq (f : Family) : familyCode f = familyNumber f := by cases f <;> rfl

theorem familyNumber_lt (f : Family) : familyNumber f < 2 ^ 2 := by cases f <;> decide

theorem modeCode_eq (m : Mode) : modeCode m = (decide (m = .stop)).toNat := by cases m <;> rfl

theorem busy_eq (p : Phase) : (if p = .idle then 0 else 1) = (decide (p ≠ .idle)).toNat := by
  by_cases h : p = .idle <;> simp [h]

/-! ### The fields of the word -/

section
variable {s : State} (hused : (s.pool s.active).used.length ≤ 8) (havail : s.alloc.avail.length ≤ 255)
include hused havail

theorem statusFields_fit : ∀ f ∈ statusFields s, f.Fits := by
  simp only [statusFields, errorCode_eq, familyCode_eq, modeCode_eq, busy_eq, List.forall_mem_cons]
  exact ⟨fits_bit _ (by decide), fits_bit _ (by decide), fits_of_lt (by decide) (by decide),
    fits_of_lt (by decide) (errorNumber_lt _), fits_of_lt (by decide) (by omega), fits_of_lt (by decide) (familyNumber_lt _),
    fits_bit _ (by decide), fits_bit _ (by decide), fits_of_lt (by decide) (by omega), fits_bit _ (by decide),
    fits_bit _ (by decide), fits_bit _ (by decide), fits_of_lt (by decide) (by decide), nofun⟩

theorem fieldOf_statusWord : ∀ f ∈ statusFields s, fieldOf (statusWord s) f.hi f.lo = f.value :=
  statusWord_eq_word s ▸ fieldOf_word (statusFields_fit hused havail) (statusFields_apart s)

end

end Sys2Proof.Machine

open Sys2Proof Sys2Proof.Machine Sys2Proof.Claims

/-- Settles O16: the word is made of R120's fields, and each of them is read back. -/
theorem readStatusFields : Obligations.ReadStatusFields := by
  intro s hused havail
  have hfields := fieldOf_statusWord hused havail
  simp only [statusFields, errorCode_eq, familyCode_eq, modeCode_eq, busy_eq, List.forall_mem_cons] at hfields
  obtain ⟨hallocFail, hcmdErr, hlow, hlastErr, husedCount, hactive, hmode, hstopReq, hlines, hinstr, hfsa, hbusy, hhigh,
    -⟩ := hfields
  exact ⟨statusWord s, rfl, getLsbD_of_fieldOf hallocFail, getLsbD_of_fieldOf hcmdErr, hlow, hlastErr, husedCount, hactive,
    getLsbD_of_fieldOf hmode, getLsbD_of_fieldOf hstopReq, hlines, getLsbD_of_fieldOf hinstr, getLsbD_of_fieldOf hfsa,
    getLsbD_of_fieldOf hbusy, hhigh⟩

/-- Settles O17: after the clears LAST_ERR is 0 already, so READ_STATUS there answers the same word and leaves the state. -/
theorem clearStatus : Obligations.ClearStatus := by
  intro mask s
  have hclear (flag bit : Bool) : (flag && !bit) = if bit then false else flag := by cases bit <;> simp
  refine ⟨_, ?_, rfl⟩
  rw [← hclear, ← hclear]
  rfl

end

section
/-! Every state and every command has a next state (60_exceptions R900, R912). -/

namespace Sys2Proof.Machine

theorem exec_next (i : Instr) (s : State) : ∃ t, exec i s = .next t := by
  cases i <;> exact ⟨_, rfl⟩

theorem hostStep_next (s : State) : ∃ t, s.hostStep = .next t := by
  unfold State.hostStep
  split
  · exact exec_next _ _
  · exact ⟨_, rfl⟩
  · exact ⟨_, rfl⟩

theorem agentStep_next (s : State) (a : Agent) : ∃ t, s.agentStep a = .next t := by
  cases a with
  | host => exact hostStep_next s
  | engine => exact ⟨_, rfl⟩
  | reset => exact ⟨_, rfl⟩

theorem step_next (s : State) : ∃ t, step s = .next t := by
  unfold step
  split
  · exact agentStep_next _ _
  · exact agentStep_next _ _

end Sys2Proof.Machine

open Sys2Proof Sys2Proof.Machine

/-- Settles O9: a step is one agent's, and a HOST step is at most one command, each of which answers a next state. -/
theorem everyStepHasANextState : Obligations.EveryStepHasANextState := ⟨step_next, exec_next⟩

end

section
/-! The operand checks of every command against the list of 60_exceptions R903, and what a command that passes them leaves
(R905, R906). -/

namespace Sys2Proof.Machine

open Sys2Proof.Claims

/-! ### One command's checks -/

/-- LAST_ERR is 0, and CMD_ERR is as before unless the command is CLEAR_STATUS (60_exceptions R906). -/
structure Succeeded (i : Instr) (s t : State) : Prop where
  lastErr : t.lastErr = .ok
  cmdErr : (∀ mask, i ≠ .clearStatus mask) → t.cmdErr = s.cmdErr

/-- The command is refused with ILLEGAL_ARG where its line of R903 says so, and succeeds everywhere else. -/
structure Checked (i : Instr) (s t : State) : Prop where
  refused : argRefused s i → t = s.reject .illegalArg
  succeeded : ¬argRefused s i → Succeeded i s t

section
variable {i : Instr} {s t : State}

theorem Checked.of_refused (h : argRefused s i) : Checked i s (s.reject .illegalArg) := ⟨fun _ => rfl, absurd h⟩

theorem Checked.of_succeeded (h : ¬argRefused s i) (hl : t.lastErr = .ok)
    (hc : (∀ mask, i ≠ .clearStatus mask) → t.cmdErr = s.cmdErr) : Checked i s t :=
  ⟨fun ha => absurd ha h, fun _ => ⟨hl, hc⟩⟩

theorem checked_onLine {l : Nat} {pass : State} (hout : s.nLines ≤ l → argRefused s i)
    (hin : l < s.nLines → Checked i s pass) : Checked i s (s.onLine l pass) := by
  obtain ⟨hl, e⟩ | ⟨hl, e⟩ := s.onLine_cases l pass
  · rw [e]
    exact hin hl
  · exact e ▸ .of_refused (hout hl)

theorem checked_onFamily {fam : Nat} {pass : Family → State} (hnone : 3 ≤ fam → argRefused s i)
    (hsome : ∀ f, familyOf fam = some f → ¬3 ≤ fam → Checked i s (pass f)) : Checked i s (s.onFamily fam pass) := by
  obtain ⟨f, hf, e⟩ | ⟨hfam, e⟩ := s.onFamily_cases fam pass
  · exact e ▸ hsome f hf (familyOf_eq_none.not.1 (by simp [hf]))
  · exact e ▸ .of_refused (hnone hfam)

theorem checked_onStringFamily {fam : Nat} {pass : State} (hother : fam ≠ 0 → argRefused s i)
    (hstring : fam = 0 → Checked i s pass) : Checked i s (s.onStringFamily fam pass) := by
  obtain ⟨hf, e⟩ | ⟨hf, e⟩ := s.onStringFamily_cases fam pass
  · rw [e]
    exact hstring hf
  · exact e ▸ .of_refused (hother hf)

theorem checked_onSlot {slot : Fin 128} {pass : Config.ParamRow → State}
    (hout : s.cfg.val.table.length ≤ slot → argRefused s i)
    (hin : ∀ row, slot.val < s.cfg.val.table.length → Checked i s (pass row)) : Checked i s (s.onSlot slot pass) := by
  obtain ⟨row, hrow, e⟩ | ⟨hslot, e⟩ := s.onSlot_cases slot pass
  · exact e ▸ hin row (List.getElem?_eq_some_iff.1 hrow).1
  · exact e ▸ .of_refused (hout hslot)

end

/-! ### Every command's checks -/

/-- Behind the mode gate a command makes the checks of its line of R903 and no others. -/
theorem exec_checked {i : Instr} {s : State} (hm : i.isDiagnostic = true → s.mode = .stop) :
    ∃ t, exec i s = .next t ∧ Checked i s t := by
  have gate {pass : State} (hi : i.isDiagnostic = true) (h : Checked i s pass) : Checked i s (s.diagnostic pass) := by
    rwa [State.diagnostic_stop (hm hi)]
  cases i <;> refine ⟨_, rfl, ?_⟩
  case nop | noteOn | noteOff | forceStopAll | readStatus | engineStop | engineRun =>
    exact .of_succeeded id rfl fun _ => rfl
  case clearStatus mask => exact .of_succeeded id rfl fun h => absurd rfl (h mask)
  case setInstrument => exact checked_onFamily id fun _ _ hfam => .of_succeeded hfam rfl fun _ => rfl
  case paramSet | paramAdd | paramReset | paramGet =>
    exact checked_onSlot id fun _ hslot => .of_succeeded hslot.not_ge rfl fun _ => rfl
  case allocGet => exact gate rfl (.of_succeeded id rfl fun _ => rfl)
  case dlPush | dlGetLast | dlProcess | dlSetDelay | dlClear =>
    exact gate rfl (checked_onLine id fun hl => .of_succeeded hl.not_ge rfl fun _ => rfl)
  case allocRelease =>
    refine gate rfl (checked_onLine .inl fun hl => ?_)
    split
    · rename_i howner
      exact .of_succeeded (not_or.2 ⟨hl.not_ge, not_not.2 howner⟩) rfl fun _ => rfl
    · rename_i howner
      exact .of_refused (.inr howner)
  case tfSetDelay | tfProcess | lossSetCutoff | lossProcess | lossPhaseDelay | dispSetGD | dispProcess | dispPhaseDelay =>
    exact gate rfl (checked_onFamily id fun _ _ hfam => .of_succeeded hfam rfl fun _ => rfl)
  case lossSetType fam _ _ =>
    refine gate rfl (checked_onFamily .inl fun f hf hfam => ?_)
    have hreed : f = .reed ↔ fam = 1 := by
      obtain ⟨rfl, rfl⟩ | ⟨rfl, rfl⟩ | ⟨rfl, rfl⟩ := familyOf_eq_some.1 hf <;> decide
    split
    · rename_i hr
      exact .of_refused (.inr (hreed.1 hr))
    · rename_i hr
      exact .of_succeeded (not_or.2 ⟨hfam, hreed.not.1 hr⟩) rfl fun _ => rfl
  case dispSetStages =>
    refine gate rfl (checked_onFamily .inl fun f _ hfam => ?_)
    dsimp only
    split
    · rename_i hstages
      exact .of_refused (.inr hstages)
    · rename_i hstages
      exact .of_succeeded (not_or.2 ⟨hfam, hstages⟩) rfl fun _ => rfl
  case noiseSeed | noiseNext =>
    exact gate rfl (checked_onStringFamily id fun hf => .of_succeeded (not_not.2 hf) rfl fun _ => rfl)

/-- A command whose LAST_ERR is 0 has passed the mode gate and its operand checks. -/
theorem succeeded_of_lastErr_ok {i : Instr} {s t : State} (h : exec i s = .next t) (hok : t.lastErr = .ok) :
    Succeeded i s t := by
  have hm : i.isDiagnostic = true → s.mode = .stop := by
    intro hd
    cases hmode : s.mode with
    | stop => rfl
    | run =>
      obtain rfl := Host.Outcome.next.inj (h.symm.trans ((modeGateAndCommandClasses i s).2.1 hd hmode))
      exact absurd hok nofun
  obtain ⟨u, hu, hrefused, hsucceeded⟩ := exec_checked hm
  obtain rfl := Host.Outcome.next.inj (h.symm.trans hu)
  refine hsucceeded fun ha => ?_
  rw [hrefused ha] at hok
  exact absurd hok nofun

end Sys2Proof.Machine

open Sys2Proof Sys2Proof.Machine

/-- Settles O11: every command whose mode is right makes the checks of its line of R903. -/
theorem argumentChecks : Obligations.ArgumentChecks := by
  intro i s hm
  obtain ⟨t, ht, hrefused, hsucceeded⟩ := exec_checked hm
  exact ⟨fun ha => ht.trans (congrArg _ (hrefused ha)), fun ha => ⟨t, ht, (hsucceeded ha).lastErr⟩⟩

/-- Settles O12: the encoding is checked by the HOST's step and the mode by the gate; a refusal is `reject`, and a command
that leaves LAST_ERR = 0 succeeded. -/
theorem refusalAndSuccess : Obligations.RefusalAndSuccess := by
  refine ⟨fun s later why rest => step_of_illegal, fun i s hd hrun _ => (modeGateAndCommandClasses i s).2.1 hd hrun,
    fun i s t h hne => ?_, fun i s t h hok => (succeeded_of_lastErr_ok h hok).cmdErr⟩
  obtain ⟨c, -, rfl⟩ | ⟨u, r, -, rfl⟩ := exec_cases h
  · rfl
  · exact absurd rfl hne

end

section
/-! The reset state meets the invariants (70_reset_and_hazards R951). -/

open Sys2Proof Sys2Proof.Machine

/-- Settles O54: what the invariants of steps say of the reset, with the empty pools and the phase IDLE. -/
theorem resetMeetsTheInvariants : Obligations.ResetMeetsTheInvariants := by
  intro cfg
  obtain ⟨hmemory, hbounds⟩ := linesSound_iff.1 (linesSound_resetOf cfg)
  have hpools : PoolsPartition (State.resetOf cfg) := fun f => by cases f <;> exact emptyPool_partition
  exact ⟨hmemory, hpools, allocatorConsistent_resetOf cfg, resetOf_rawInRange cfg, resetOf_liveInRange cfg,
    phaseConsistent_of_zero rfl nofun, hbounds, fun f v => (resetOf_bounds cfg f v).2⟩

end

section
/-! The reset state (70_reset_and_hazards R951, R952): the registers and the lines of any configuration, its voices, and the
values that the defaults give. -/

namespace Sys2Proof.Machine

open Sys2Proof.Claims

/-! ### Registers and lines -/

section
variable (cfg : Cfg)

theorem resetOf_rawAt {i : Nat} {row : Config.ParamRow} (h : cfg.val.table[i]? = some row) :
    (State.resetOf cfg).rawAt i = row.defaultVal := by
  have hmem := List.mem_of_getElem? h
  obtain ⟨-, hmin, hmax, -⟩ := row_bounds cfg hmem
  have hraw : (resetRaw cfg.val)[i]? = some (BitVec.ofInt 32 row.defaultVal) := List.getElem?_map.trans (congrArg _ h)
  rw [← toInt_ofInt_of_row cfg hmem hmin hmax, State.rawAt, List.getD_eq_getElem?_getD]
  exact congrArg (fun w => BitVec.toInt (w.getD 0#32)) hraw

theorem resetOf_live {i : Nat} {row : Config.ParamRow} (h : cfg.val.table[i]? = some row) :
    (State.resetOf cfg).live[i]? = some (liveValue row row.defaultVal) := by
  rw [← liveOf_eq_liveValue]
  exact List.getElem?_map.trans (congrArg _ h)

theorem resetOf_avail : (State.resetOf cfg).alloc.avail = (List.range (State.resetOf cfg).nLines).drop 8 :=
  checkout_avail .string _

theorem resetOf_allocFail : (State.resetOf cfg).allocFail = decide ((State.resetOf cfg).nLines < 8) := by
  refine (checkout_allocFail .string _).trans ?_
  rw [Bool.false_or, resetAllocator, List.length_range]
  rfl

/-- The String checkout gives line l to voice l and leaves the lines past the eight voices free. -/
theorem resetOf_owner {l : Nat} (hl : l < (State.resetOf cfg).nLines) : (State.resetOf cfg).alloc.owner[l]? =
    some (if h : l < 8 then .voice .string ⟨l, h⟩ 0 else .free) := by
  split
  · rename_i h8
    refine checkout_owner .string _ List.nodup_range (fun k hk => ?_) (v := ⟨l, h8⟩) (k := 0) (by decide) ?_
    · exact (List.mem_range.1 hk).trans_eq List.length_replicate.symm
    · have horder : lineOrder .string ⟨l, h8⟩ 0 = l := by simp [lineOrder, lineSlots]
      rw [horder]
      exact List.getElem?_range hl
  · rename_i h8
    refine (checkout_owner_other .string _ fun hk => h8 ?_).trans (List.getElem?_replicate_of_lt hl)
    obtain ⟨i, hi, he⟩ := List.mem_take_iff_getElem.1 hk
    rw [← he]
    simp only [resetAllocator, List.getElem_range]
    exact (lt_min_iff.1 hi).1

/-! ### Voices -/

theorem replicate_voice (V : Voice) (v : Fin 8) : (Vector.replicate 8 V)[v] = V := Vector.getElem_replicate _

/-- The String checkout gives voice v line v, where the pool has that many. -/
theorem resetHolding_voice (p : Config.Params) (v : Fin 8) : (resetHolding p).bank[v] =
    { resetVoice p .string with line0 := if v.val < p.nLines then some v.val else none } := by
  have horder : lineOrder .string v 0 = v.val := by simp [lineOrder, lineSlots]
  have hline0 : (resetHolding p).bank[v].line0 = if v.val < p.nLines then some v.val else none := by
    refine (checkout_ref .string _ (v := v) (k := 0) (by decide)).trans ?_
    rw [horder]
    split
    · rename_i hv
      exact List.getElem?_range hv
    · rename_i hv
      exact List.getElem?_eq_none (List.length_range.trans_le (Nat.not_lt.1 hv))
  have hline1 : (resetHolding p).bank[v].line1 = none :=
    (checkout_ref_other .string _ (v := v) (k := 1) (by decide)).trans (congrArg Voice.line1 (replicate_voice _ v))
  refine (checkout_sameButLines .string _ v).trans ?_
  rw [replicate_voice]
  exact congrArg₂ (fun l k => { resetVoice p .string with line0 := l, line1 := k }) hline0 hline1

/-- A String voice has the line of its own number where the pool has that many; no other voice has a line. -/
theorem resetOf_voice (f : Family) (v : Fin 8) : (State.resetOf cfg).voice f v =
    { resetVoice cfg.val f with
      line0 := if f = .string ∧ v.val < (State.resetOf cfg).nLines then some v.val else none } := by
  cases f with
  | reed | bow => exact replicate_voice _ v
  | string => exact (resetHolding_voice cfg.val v).trans (by simp [State.nLines, State.resetOf])

theorem resetOf_loss (f : Family) (v : Fin 8) : ((State.resetOf cfg).voice f v).loss = resetLoss cfg.val f := by
  rw [resetOf_voice]
  rfl

end

/-! ### The type of the loss filter -/

section
variable {t : List Config.ParamRow} {c : Config.ParamRow → Bool}

theorem slotsWhere_eq_nil (h : ∀ row ∈ t, c row = false) : slotsWhere t c = [] := by
  refine List.map_eq_nil_iff.2 (List.filter_eq_nil_iff.2 fun ri hri => ?_)
  simp [h ri.1 (List.mem_of_getElem? (List.mem_zipIdx_iff_getElem?.1 hri))]

/-- The last row that meets the condition is the last slot. -/
theorem slotsWhere_getLast? {i : Nat} {row : Config.ParamRow} (hrow : t[i]? = some row) (hc : c row = true)
    (hlater : ∀ (j : Nat) (other : Config.ParamRow), i < j → t[j]? = some other → c other = false) :
    (slotsWhere t c).getLast? = some i := by
  obtain ⟨hi, he⟩ := List.getElem?_eq_some_iff.1 hrow
  have hfind : t.zipIdx.reverse.find? (fun ri => c ri.1) = some (row, i) := by
    refine List.find?_eq_some_iff_getElem.2 ⟨hc, t.length - 1 - i, ?_, ?_, fun j hj => ?_⟩
    · rw [List.length_reverse, List.length_zipIdx]
      omega
    · have hplace : t.length - 1 - (t.length - 1 - i) = i := by omega
      simp [hplace, he]
    · simp [hlater (t.length - 1 - j) _ (by omega) (List.getElem?_eq_getElem (by omega))]
  rw [slotsWhere, List.getLast?_map, List.getLast?_filter, hfind]
  rfl

end

section
variable {t : List Config.ParamRow} {live : List LiveVal} {f : Family}

/-- A family without a type row is LPF1 (log 10). -/
theorem lossTypeFromLive_of_no_row (h : ∀ row ∈ t, ¬(row.cb = .lossType ∧ row.fam = f)) :
    lossTypeFromLive t live f = .lpf1 := by
  rw [lossTypeFromLive, slotsWhere_eq_nil fun row hrow => by simpa using h row hrow]
  rfl

/-- The last type row of a family decides (47_params R832, log 10). -/
theorem lossTypeFromLive_of_last_row {i : Nat} {row : Config.ParamRow} (hrow : t[i]? = some row)
    (hcb : row.cb = .lossType) (hfam : row.fam = f)
    (hlater : ∀ (j : Nat) (other : Config.ParamRow), i < j → t[j]? = some other →
      ¬(other.cb = .lossType ∧ other.fam = f))
    {x : LiveVal} (hx : live[i]? = some x) : lossTypeFromLive t live f = lossTypeOf x.asInt := by
  have hlast : (slotsWhere t fun r => r.cb == .lossType && r.fam == f).getLast? = some i :=
    slotsWhere_getLast? hrow (by simp [hcb, hfam]) fun j other hj ho => by simpa using hlater j other hj ho
  have hat : liveAt live i = x := by rw [liveAt, List.getD_eq_getElem?_getD, hx, Option.getD_some]
  rw [lossTypeFromLive, hlast, ← hat]

end

/-! ### The filters at reset -/

section
variable (p : Config.Params) (f : Family)

theorem resetLoss_values :
    let cutoff := f32Of (liveByClass p.table (resetLive p) .loss f)
    (resetLoss p f).fc = Fp.min (Fp.max (if Fp.isNaN cutoff then Fp.zero else cutoff) Fp.zero) (lossCeiling f) ∧
    (resetLoss p f).ty = lossTypeFromLive p.table (resetLive p) f ∧
    (resetLoss p f).s1 = Fp.zero ∧ (resetLoss p f).s2 = Fp.zero ∧ Designed p (resetLoss p f) := by
  rw [resetLoss, LiveVal.asF32_eq_f32Of]
  exact cutoffSet_lfSetCutoff p f _ _

theorem resetDispersion_values :
    (resetDispersion p f).m = (liveByClass p.table (resetLive p) (.disp .stages) f).asStages ∧
    (resetDispersion p f).gd = keptGroupDelay (f32Of (liveByClass p.table (resetLive p) (.disp .groupDelay) f)) ∧
    (resetDispersion p f).vs = Vector.replicate 4 Fp.zero ∧ Recomputed (resetDispersion p f) :=
  dispersionSet_dispFromLive p.table (resetLive p) f _

end

/-! ### The values of R952, evaluated in the kernel since the elaborator does not evaluate large powers -/

theorem default_resetLoss_string : resetLoss Config.default.val .string =
    ⟨.lpf1, 0x45FA0000#32, 0x3EBB67AE#32, 0x3EBB67AE#32, Fp.zero, 0xBE8930A3#32, Fp.zero, Fp.zero, Fp.zero⟩ := by
  decide +kernel

theorem default_resetLoss_reed : resetLoss Config.default.val .reed =
    ⟨.lpf1, 0x457A0000#32, 0x3E58658B#32, 0x3E58658B#32, Fp.zero, 0xBF13CD3A#32, Fp.zero, Fp.zero, Fp.zero⟩ := by
  decide +kernel

theorem default_resetLoss_bow : resetLoss Config.default.val .bow =
    ⟨.lpf1, 0x45BB8000#32, 0x3E95F61A#32, 0x3E95F61A#32, Fp.zero, 0xBED413CE#32, Fp.zero, Fp.zero, Fp.zero⟩ := by
  decide +kernel

theorem reset_envCoefs : State.reset.envReed = ⟨0x3A887600#32, 0x39DA6800#32⟩ ∧
    State.reset.envBow = ⟨0x39DA6800#32, 0x395A7000#32⟩ := by
  decide +kernel

theorem reset_statusWord : statusWord State.reset = 0x00080000#32 := by decide

end Sys2Proof.Machine

open Sys2Proof Sys2Proof.Machine Sys2Proof.Claims

/-- Settles O53: the registers and lines are what the reset writes, a voice is that of its family with its line, and the
values of R952 are evaluated. -/
theorem resetState : Obligations.ResetState := by
  refine ⟨fun cfg => ?_, fun v => ⟨?_, ?_, ?_⟩, reset_envCoefs.1, reset_envCoefs.2,
    congrArg (fun w => Host.Outcome.next (State.reset.accept w)) reset_statusWord⟩
  · have hzero (g : Fin 4) : (Vector.replicate 4 0#32)[g] = 0#32 := Vector.getElem_replicate _
    refine ⟨rfl, rfl, rfl, rfl, rfl, rfl, rfl, rfl, rfl, fun g => ⟨hzero g, hzero g⟩, fun n => Vector.getElem_replicate _,
      fun i row hrow => ⟨resetOf_rawAt cfg hrow, resetOf_live cfg hrow⟩, fun a => rfl,
      fun l => List.getElem?_replicate_of_lt, resetOf_avail cfg, resetOf_allocFail cfg, fun l => resetOf_owner cfg,
      fun f => by cases f <;> rfl, envFromLive_eq cfg.val _ .reed, envFromLive_eq cfg.val _ .bow, fun f v => ?_⟩
    obtain ⟨hfc, hty, hs1, hs2, hdesigned⟩ := resetLoss_values cfg.val f
    obtain ⟨hm, hgd, hvs, hre⟩ := resetDispersion_values cfg.val f
    rw [resetOf_voice]
    refine ⟨⟨rfl, rfl, rfl, rfl, rfl, rfl, rfl, rfl, rfl, rfl, rfl, rfl, rfl⟩, rfl, rfl,
      fun h => hty.trans (lossTypeFromLive_of_no_row h), fun i row hrow hcb hfam hlater => ?_, hs1, hs2, hdesigned, hfc,
      ?_, hgd, hvs, hre⟩
    · have hlast {x : LiveVal} := lossTypeFromLive_of_last_row (live := resetLive cfg.val) hrow hcb hfam hlater (x := x)
      exact ⟨fun hx => hty.trans (hlast hx), fun hx => hty.trans (hlast hx)⟩
    · exact hm ▸ stagesOf_asStages _
  · exact (resetOf_loss _ _ _).trans default_resetLoss_string
  · exact (resetOf_loss _ _ _).trans default_resetLoss_reed
  · exact (resetOf_loss _ _ _).trans default_resetLoss_bow

end
